-- ==== Sys2Proof/Word.lean ====
section
/-! DEFINITION. The widths the spec gives to values, and the levels of the two output lines. -/

namespace Sys2Proof

/-- A byte on the wire (00_scope.md R6). -/
abbrev Byte := BitVec 8

/-- A window coordinate, "each a 16-bit value" (00_scope.md R5 `ADDRW`; 20_memory.md R61). -/
abbrev Coord := BitVec 16

/-- A pixel colour, "a 16-bit packed color value" (00_scope.md R5 `COLW`). -/
abbrev Color := BitVec 16

/-- The request word of the host's port (30_encoding.md R89). -/
abbrev ReqWord := BitVec 51

/-- A level an output line can be driven to (00_scope.md R9). -/
inductive Level
  | low
  | high
  deriving DecidableEq, Repr

/-- What a line latch holds: a level, or `u`, "never driven since power-up" (10_state.md R26, R27). -/
inductive Line
  | u
  | low
  | high
  deriving DecidableEq, Repr

/-- The latch value after the line has been driven to a level. -/
def Level.line : Level → Line
  | .low => .low
  | .high => .high

end Sys2Proof
end

