-- ==== Sys2Proof/Config.lean ====
section
/-! DEFINITION. The parameters of 00_scope.md R5, one field each, and the one free value the spec leaves open. -/

namespace Sys2Proof

/-- The implementation parameters (00_scope.md R5): constants of the instance, written by nobody (10_state.md R21). -/
structure Config where
  /-- `WIDTH`, panel width in pixels. -/
  width : Coord
  /-- `HEIGHT`, panel height in pixels. -/
  height : Coord
  /-- `BUFFERED`, the variant that owns a framebuffer (R2). -/
  buffered : Bool
  /-- `ADDRW`, width in bits of a window coordinate: 16 on every legal instance, the width of the type `Coord`. -/
  addrW : Nat
  /-- `COLW`, width in bits of a pixel colour: 16 on every legal instance, the width of the type `Color`. -/
  colW : Nat
  /-- `MSW`, width in bits of the millisecond counter. -/
  msw : Nat
  /-- `T_RST_LOW`, minimum time the reset line is held low. -/
  tRstLow : Nat
  /-- `T_RST_BOOT`, minimum wait after the reset line goes high. -/
  tRstBoot : Nat
  /-- `T_SWRESET`, minimum wait after the software-reset command. -/
  tSwreset : Nat
  /-- `T_SLPOUT`, minimum wait after the sleep-out command. -/
  tSlpout : Nat
  cmdSwreset : Byte
  cmdSlpout : Byte
  cmdInvon : Byte
  cmdDispon : Byte
  cmdCaset : Byte
  cmdRaset : Byte
  cmdRamwr : Byte
  cmdColmod : Byte
  cmdRamwrc : Byte
  /-- `PIXFMT`, the configuration byte sent after `CMD_COLMOD`. -/
  pixfmt : Byte
  deriving DecidableEq, Repr

/-- The number of framebuffer entries, `WIDTH*HEIGHT`, a natural number with no wrap (43_pixel_frame.md R177). -/
def Config.size (cfg : Config) : Nat := cfg.width.toNat * cfg.height.toNat

/-- `2^MSW`, the modulus of the millisecond counter (10_state.md R29). -/
def Config.msMod (cfg : Config) : Nat := 2 ^ cfg.msw

/-- The nine command bytes, in the order of 30_encoding.md R87. -/
def Config.commandBytes (cfg : Config) : List Byte :=
  [cfg.cmdSwreset, cfg.cmdSlpout, cfg.cmdInvon, cfg.cmdDispon, cfg.cmdCaset, cfg.cmdRaset,
   cfg.cmdRamwr, cfg.cmdColmod, cfg.cmdRamwrc]

/-- The eight command bytes the sequencer sends with `DC = low` (30_encoding.md R92). -/
def Config.emittedBytes (cfg : Config) : List Byte :=
  [cfg.cmdSwreset, cfg.cmdSlpout, cfg.cmdInvon, cfg.cmdDispon, cfg.cmdCaset, cfg.cmdRaset,
   cfg.cmdRamwr, cfg.cmdColmod]

/-- The ranges of R5 and 40_init_sequencer.md R111: `ADDRW` and `COLW` 16, dimensions from 1, `MSW >= 8`,
waits below `2^MSW`, the nine command bytes pairwise distinct. -/
def Config.wf (cfg : Config) : Bool :=
  decide (cfg.addrW = 16) && decide (cfg.colW = 16)
  && decide (cfg.width ≠ 0) && decide (cfg.height ≠ 0) && decide (8 ≤ cfg.msw)
  && decide (cfg.tRstLow < cfg.msMod) && decide (cfg.tRstBoot < cfg.msMod)
  && decide (cfg.tSwreset < cfg.msMod) && decide (cfg.tSlpout < cfg.msMod)
  && decide cfg.commandBytes.Nodup

/-- The instance the model starts from. The dimensions are those of 95_test_vectors.md EX6 and the variant is the
buffered one: DESIGN CHOICE, log entry 1, unsafe only for a claim about `State.reset` itself. The waits are the
source's. `MSW` is the spec's default (decision D9). The command bytes and `PIXFMT` are PRESUMED (general knowledge
G1, G2), log entry 2, unsafe for a claim that rests on their values. -/
def Config.default : Config where
  width := 240
  height := 320
  buffered := true
  addrW := 16
  colW := 16
  msw := 32
  tRstLow := 10
  tRstBoot := 120
  tSwreset := 120
  tSlpout := 120
  cmdSwreset := 0x01
  cmdSlpout := 0x11
  cmdInvon := 0x21
  cmdDispon := 0x29
  cmdCaset := 0x2A
  cmdRaset := 0x2B
  cmdRamwr := 0x2C
  cmdColmod := 0x3A
  cmdRamwrc := 0x3C
  pixfmt := 0x55

/-- FREE VALUE (93_implementation_defined.md U8): the content of framebuffer entry `index` from power-up until INIT's
zero-fill, "a free draw per entry, under no law"; `draw` is the number of the power-up's draw. Log entry 6; safe. -/
opaque Config.freeFb : (draw index : Nat) → Color

end Sys2Proof
end

