-- ==== Sys2Proof/Machine/Operands.lean ====
section
/-! DEFINITION. Operand assembly: bytes of a 16-bit value, window bounds, the framebuffer index, colour channels. -/

namespace Sys2Proof

/-- `hi(v) = v[15:8]` (00_scope.md R7). -/
def hi (v : BitVec 16) : Byte := v.extractLsb' 8 8

/-- `lo(v) = v[7:0]` (00_scope.md R7). -/
def lo (v : BitVec 16) : Byte := v.extractLsb' 0 8

/-- `be16(v)`, high byte first (00_scope.md R7; 20_memory.md R52, R53). -/
def be16 (v : BitVec 16) : List Byte := [hi v, lo v]

/-- The 16-bit value whose bytes are `h` and `l`: the inverse of `be16`. -/
def ofBytes (h l : Byte) : BitVec 16 := h ++ l

/-- The parameter bytes of a `W4` message (30_encoding.md R84). -/
def windowBytes (start stop : Coord) : List Byte := be16 start ++ be16 stop

/-- The data bytes of a memory write, two a pixel, high byte first (20_memory.md R53, R54). -/
def pixelBytes (ps : List Color) : List Byte := ps.flatMap be16

/-- End bound of the full-screen window: dimension - 1 (30_encoding.md R85, 42_window.md R163). -/
def fullEnd (dim : Coord) : Coord := dim - 1

/-- End bound of the single-pixel window: `(x + 1) mod 2^16`, not clamped (43_pixel_frame.md R171, R172). -/
def pixelEnd (x : Coord) : Coord := x + 1

/-- Index of the pixel at column `x`, row `y`: `y*WIDTH + x` (20_memory.md R51). -/
def fbIndex (cfg : Config) (x y : Coord) : Nat := y.toNat * cfg.width.toNat + x.toNat

/-- Red channel, `c[15:11]` (30_encoding.md R86). PRESUMED, log entry 25: read by no rule of the block. -/
def red (c : Color) : BitVec 5 := c.extractLsb' 11 5

/-- Green channel, `c[10:5]` (30_encoding.md R86). PRESUMED, log entry 25. -/
def green (c : Color) : BitVec 6 := c.extractLsb' 5 6

/-- Blue channel, `c[4:0]` (30_encoding.md R86). PRESUMED, log entry 25. -/
def blue (c : Color) : BitVec 5 := c.extractLsb' 0 5

/-- A call on a pin capability (41_framing.md R144, 60_exceptions.md R230). -/
inductive PinCall
  | set
  | reset
  deriving DecidableEq, Repr

/-- The level a pin call gives: `Set()` high, `Reset()` low (41_framing.md R144). PRESUMED, log entry 25. -/
def PinCall.level : PinCall → Level
  | .set => .high
  | .reset => .low

end Sys2Proof
end

