-- ==== Sys2Proof/Syntax.lean ====
section
/-! DEFINITION. The instructions, one constructor per row of the opcode table, and the words of the traces:
events and frames. -/

namespace Sys2Proof

/-- The fifteen rows of opcode_table.json. The six requests carry the three operand fields of the request word
whatever the opcode, since the latches are loaded from them at every acceptance (10_state.md R22; 30_encoding.md R89).
The nine wire commands carry the parameter bytes of their message format (30_encoding.md R82). -/
inductive Instr
  /-- INIT, 40_init_sequencer.md R110. -/
  | init (x y : Coord) (color : Color)
  /-- SETPIXEL x, y, color, 43_pixel_frame.md R170. -/
  | setpixel (x y : Coord) (color : Color)
  /-- REFRESH, 43_pixel_frame.md R176. -/
  | refresh (x y : Coord) (color : Color)
  /-- GETWIDTH, 44_accessors.md R190. -/
  | getwidth (x y : Coord) (color : Color)
  /-- GETHEIGHT, 44_accessors.md R191. -/
  | getheight (x y : Coord) (color : Color)
  /-- GETBUFFER, 44_accessors.md R192. -/
  | getbuffer (x y : Coord) (color : Color)
  /-- Software reset, 45_wire_commands.md R200. -/
  | swreset
  /-- Sleep-out, R201. -/
  | slpout
  /-- Inversion-on, R202. -/
  | invon
  /-- Display-on, R203. -/
  | dispon
  /-- Column-address-set with its column range, R204. -/
  | caset (colStart colEnd : Coord)
  /-- Row-address-set with its row range, R205. -/
  | raset (rowStart rowEnd : Coord)
  /-- Memory-write of one pixel or more, R206. -/
  | ramwr (first : Color) (rest : List Color)
  /-- Interface-pixel-format with its one byte, R207. -/
  | colmod (fmt : Byte)
  /-- Write-memory-continue, R208: in the enumeration, emitted by no operation. -/
  | ramwrc (first : Color) (rest : List Color)
  deriving DecidableEq, Repr

/-- One event of the trace (00_scope.md R9). -/
inductive Event
  /-- The reset line was driven. -/
  | res (l : Level)
  /-- The data/command line was driven. -/
  | dc (l : Level)
  /-- One single-byte transport write. -/
  | tx (b : Byte)
  /-- One buffer transport write. -/
  | txb (bs : List Byte)
  /-- A `Delay(n)` completed. -/
  | wait (n : Nat)
  deriving DecidableEq, Repr

/-- A byte of wire traffic tagged by the level of the data/command line (00_scope.md R10, 30_encoding.md R80). -/
structure Frame where
  dc : Line
  byte : Byte
  deriving DecidableEq, Repr

/-- The command frame `C:bb`. -/
def Frame.cmd (b : Byte) : Frame := ⟨.low, b⟩

/-- The data frame `D:bb`. -/
def Frame.data (b : Byte) : Frame := ⟨.high, b⟩

/-- The two encodings of 30_encoding.md: a request word, or the frames of one wire message. -/
inductive Code
  | request (w : ReqWord)
  | message (fs : List Frame)
  deriving DecidableEq, Repr

end Sys2Proof
end

