-- ==== Sys2Proof/WellFormed.lean ====
section
/-! DEFINITION. Which instructions are well-formed on an instance. -/

namespace Sys2Proof

/-- `0 <= x < WIDTH` and `0 <= y < HEIGHT` (43_pixel_frame.md R173). -/
def Config.inRange (cfg : Config) (x y : Coord) : Bool :=
  decide (x.toNat < cfg.width.toNat) && decide (y.toNat < cfg.height.toNat)

/-- A well-formed instruction: a request the instance offers, with coordinates in range (30_encoding.md R91,
43_pixel_frame.md R173), or a wire message the sequencer can send (30_encoding.md R82, R92). The window commands check
nothing (42_window.md R164). -/
def Instr.wf (cfg : Config) : Instr → Bool
  | .init _ _ _ => true
  | .setpixel x y _ => cfg.inRange x y
  | .refresh _ _ _ => cfg.buffered
  | .getwidth _ _ _ => true
  | .getheight _ _ _ => true
  | .getbuffer _ _ _ => cfg.buffered
  | .swreset => true
  | .slpout => true
  | .invon => true
  | .dispon => true
  | .caset _ _ => true
  | .raset _ _ => true
  | .ramwr _ rest =>
      decide (rest.length + 1 = 1) || (cfg.buffered && decide (rest.length + 1 = cfg.size))
  | .colmod fmt => decide (fmt = cfg.pixfmt)
  | .ramwrc _ _ => false

/-- Whether the instruction is one of the six host requests (30_encoding.md R90). -/
def Instr.isRequest : Instr → Bool
  | .init _ _ _ | .setpixel _ _ _ | .refresh _ _ _ | .getwidth _ _ _ | .getheight _ _ _
  | .getbuffer _ _ _ => true
  | .swreset | .slpout | .invon | .dispon | .caset _ _ | .raset _ _ | .ramwr _ _ | .colmod _
  | .ramwrc _ _ => false

end Sys2Proof
end

