-- ==== Sys2Proof/Decode.lean ====
section
/-! DEFINITION. The decoder of the two encodings, total, and the encoder. -/

namespace Sys2Proof

/-- Why an encoding names no instruction. -/
inductive DecodeError
  /-- Request opcode 0 or 7 (30_encoding.md R91). -/
  | reservedOp (op : BitVec 3)
  /-- A message must begin with a command frame (30_encoding.md R82). -/
  | noCommandFrame
  /-- The command frame carries none of the nine command bytes (30_encoding.md R87). -/
  | unknownCommand (b : Byte)
  /-- The data frames are not those of the command's format (30_encoding.md R82). -/
  | badParameters (b : Byte)
  deriving DecidableEq, Repr

/-- `req[50:48]`, `op` (30_encoding.md R89). -/
def reqOp (w : ReqWord) : BitVec 3 := w.extractLsb' 48 3

/-- `req[47:32]`, `x` (30_encoding.md R89). -/
def reqX (w : ReqWord) : Coord := w.extractLsb' 32 16

/-- `req[31:16]`, `y` (30_encoding.md R89). -/
def reqY (w : ReqWord) : Coord := w.extractLsb' 16 16

/-- `req[15:0]`, `color` (30_encoding.md R89). -/
def reqColor (w : ReqWord) : Color := w.extractLsb' 0 16

/-- The request word with the given fields (30_encoding.md R89). -/
def reqWord (op : BitVec 3) (x y : Coord) (color : Color) : ReqWord := op ++ x ++ y ++ color

/-- The request opcode map (30_encoding.md R90, R91). The variant is not looked at here: a request the instance does
not offer is refused by its meaning. -/
def decodeRequest (w : ReqWord) : Except DecodeError Instr :=
  match (reqOp w).toNat with
  | 1 => .ok (.init (reqX w) (reqY w) (reqColor w))
  | 2 => .ok (.setpixel (reqX w) (reqY w) (reqColor w))
  | 3 => .ok (.refresh (reqX w) (reqY w) (reqColor w))
  | 4 => .ok (.getwidth (reqX w) (reqY w) (reqColor w))
  | 5 => .ok (.getheight (reqX w) (reqY w) (reqColor w))
  | 6 => .ok (.getbuffer (reqX w) (reqY w) (reqColor w))
  | _ => .error (.reservedOp (reqOp w))

/-- The bytes of a list of data frames, or none if a frame is not a data frame (30_encoding.md R80). -/
def dataBytes : List Frame → Option (List Byte)
  | [] => some []
  | f :: fs =>
    match f.dc with
    | .high => (dataBytes fs).map (f.byte :: ·)
    | .low => none
    | .u => none

/-- The pixels of a byte list, high byte first, or none if a byte is left over (20_memory.md R53). -/
def pixelsOf : List Byte → Option (List Color)
  | [] => some []
  | [_] => none
  | h :: l :: bs => (pixelsOf bs).map (ofBytes h l :: ·)

/-- A message without parameters (format `W0`). -/
def decodeW0 (b : Byte) (i : Instr) : List Byte → Except DecodeError Instr
  | [] => .ok i
  | _ => .error (.badParameters b)

/-- A message with one parameter byte (format `W1`). -/
def decodeW1 (b : Byte) (i : Byte → Instr) : List Byte → Except DecodeError Instr
  | [p] => .ok (i p)
  | _ => .error (.badParameters b)

/-- A message with a start and an end (format `W4`). -/
def decodeW4 (b : Byte) (i : Coord → Coord → Instr) : List Byte → Except DecodeError Instr
  | [p0, p1, p2, p3] => .ok (i (ofBytes p0 p1) (ofBytes p2 p3))
  | _ => .error (.badParameters b)

/-- A message with one pixel or more (formats `WP1` and `WPN`). -/
def decodeWP (b : Byte) (i : Color → List Color → Instr) (bs : List Byte) :
    Except DecodeError Instr :=
  match pixelsOf bs with
  | some (p :: ps) => .ok (i p ps)
  | _ => .error (.badParameters b)

/-- The wire command map (30_encoding.md R87) with the formats of R82: command byte `b`, parameter bytes `ps`. -/
def decodeCommand (cfg : Config) (b : Byte) (ps : List Byte) : Except DecodeError Instr :=
  if b = cfg.cmdSwreset then decodeW0 b .swreset ps
  else if b = cfg.cmdSlpout then decodeW0 b .slpout ps
  else if b = cfg.cmdInvon then decodeW0 b .invon ps
  else if b = cfg.cmdDispon then decodeW0 b .dispon ps
  else if b = cfg.cmdCaset then decodeW4 b .caset ps
  else if b = cfg.cmdRaset then decodeW4 b .raset ps
  else if b = cfg.cmdRamwr then decodeWP b .ramwr ps
  else if b = cfg.cmdColmod then decodeW1 b .colmod ps
  else if b = cfg.cmdRamwrc then decodeWP b .ramwrc ps
  else .error (.unknownCommand b)

/-- A wire message: one command frame, then its data frames (30_encoding.md R82). -/
def decodeMessage (cfg : Config) : List Frame → Except DecodeError Instr
  | [] => .error .noCommandFrame
  | f :: fs =>
    match f.dc with
    | .low =>
      match dataBytes fs with
      | some ps => decodeCommand cfg f.byte ps
      | none => .error (.badParameters f.byte)
    | .high => .error .noCommandFrame
    | .u => .error .noCommandFrame

/-- The decoder. -/
def decode (cfg : Config) : Code → Except DecodeError Instr
  | .request w => decodeRequest w
  | .message fs => decodeMessage cfg fs

/-- The frames of the message with command byte `b` and parameter bytes `ps` (30_encoding.md R82). -/
def messageFrames (b : Byte) (ps : List Byte) : List Frame := .cmd b :: ps.map .data

/-- The encoder (30_encoding.md R82, R84, R87 to R90). -/
def encode (cfg : Config) : Instr → Code
  | .init x y c => .request (reqWord 1 x y c)
  | .setpixel x y c => .request (reqWord 2 x y c)
  | .refresh x y c => .request (reqWord 3 x y c)
  | .getwidth x y c => .request (reqWord 4 x y c)
  | .getheight x y c => .request (reqWord 5 x y c)
  | .getbuffer x y c => .request (reqWord 6 x y c)
  | .swreset => .message (messageFrames cfg.cmdSwreset [])
  | .slpout => .message (messageFrames cfg.cmdSlpout [])
  | .invon => .message (messageFrames cfg.cmdInvon [])
  | .dispon => .message (messageFrames cfg.cmdDispon [])
  | .caset a b => .message (messageFrames cfg.cmdCaset (windowBytes a b))
  | .raset a b => .message (messageFrames cfg.cmdRaset (windowBytes a b))
  | .ramwr p ps => .message (messageFrames cfg.cmdRamwr (pixelBytes (p :: ps)))
  | .colmod f => .message (messageFrames cfg.cmdColmod [f])
  | .ramwrc p ps => .message (messageFrames cfg.cmdRamwrc (pixelBytes (p :: ps)))

/-- How many parameter bytes the shortest message of a command byte has (30_encoding.md R82). -/
def paramCount (cfg : Config) (b : Byte) : Nat :=
  if b = cfg.cmdCaset then 4
  else if b = cfg.cmdRaset then 4
  else if b = cfg.cmdRamwr then 2
  else if b = cfg.cmdColmod then 1
  else if b = cfg.cmdRamwrc then 2
  else 0

/-- The instruction of an opcode-table word (log entry 13): a row of one byte is a command byte, followed by the zero
parameter bytes of its shortest message; a row of 51 bits (56 in whole bytes) is a request word. The instance is the
default one. -/
def decodeTableWord (nbits w : Nat) : Option Instr :=
  if nbits ≤ 8 then
    if w < 2 ^ 8 then
      let b : Byte := BitVec.ofNat 8 w
      (decodeMessage Config.default
        (messageFrames b (List.replicate (paramCount Config.default b) 0))).toOption
    else none
  else if w < 2 ^ 51 then (decodeRequest (BitVec.ofNat 51 w)).toOption
  else none

end Sys2Proof
end

