-- ==== Sys2Proof/Machine/State.lean ====
section
/-! DEFINITION. The state of the machine (10_state.md R20), the reasons a step can stop, and the state at power-up. -/

namespace Sys2Proof.Machine

/-- The three operations that have micro-steps (10_state.md R23). -/
inductive Op
  | init
  | setpixel
  | refresh
  deriving DecidableEq, Repr

/-- The sequencer position, the block's program counter (10_state.md R23): IDLE, or micro-step `k` of an operation.
The positions of the tables R125, R175 and R181 are those with `Seq.legal`, which every step keeps. -/
inductive Seq
  | idle
  | row (op : Op) (k : Nat)
  deriving DecidableEq, Repr

/-- What the host does at its ports (10_state.md R34; 30_encoding.md R94). -/
inductive HostAct
  /-- `req_valid = 1` with this request word. -/
  | request (w : ReqWord)
  /-- Write of one framebuffer entry, `FB[i] <- v`. -/
  | fbWrite (i : Nat) (v : Color)
  /-- Read of one framebuffer entry, `FB[i]`. -/
  | fbRead (i : Nat)
  deriving DecidableEq, Repr

/-- Whose step is next (00_scope.md R11), or what the environment does to the tick source. Log entry 9. -/
inductive Turn
  /-- The tick source. -/
  | tick
  /-- The sequencer. -/
  | sequencer
  /-- The tick source stops, or its interrupt is masked (70_reset_and_hazards.md R260). -/
  | stopTick
  /-- The tick source is started (70_reset_and_hazards.md R252). -/
  | startTick
  deriving DecidableEq, Repr

/-- What the entries of the framebuffer that are not listed hold. -/
inductive Background
  /-- Unspecified since power-up: the free value `Config.freeFb draw i` (93_implementation_defined.md U8). -/
  | unspecified (draw : Nat)
  /-- Zero, since INIT stage 8 (40_init_sequencer.md R120). -/
  | zero
  deriving DecidableEq, Repr

/-- The framebuffer (10_state.md R28): 16-bit entries by index (20_memory.md R51), as a list of (index, value) pairs in
one canonical form, `Fb.wf`. -/
structure Fb where
  background : Background
  cells : List (Nat × Color)
  deriving DecidableEq, Repr

/-- Faults: none. "The block raises no exception", "A model therefore has no fault outcome for any step of the
sequencer" (60_exceptions.md R220). The type has no constructor, so nobody raises one. -/
inductive Fault
  deriving DecidableEq, Repr

/-- Why the model refuses (60_exceptions.md R223: "refuse the run"). Every refusal is safe: it ends the run and proves
nothing about the hardware. -/
inductive Refusal
  /-- An arm of `exec` that has no meaning yet. Raised by `exec` only; safe. -/
  | notModelled (mnemonic : String)
  /-- Request opcode 0 or 7 (30_encoding.md R91, U6). Raised by the sequencer's step at IDLE; safe. -/
  | reservedRequest (op : BitVec 3)
  /-- REFRESH or GETBUFFER on an unbuffered instance (30_encoding.md R91, U6). Raised by their meanings; safe. -/
  | bufferedOnly
  /-- SETPIXEL with `x >= WIDTH` or `y >= HEIGHT` (43_pixel_frame.md R173, U1). Raised by its meaning; safe. -/
  | coordinatesOutOfRange
  /-- Host access to `FB[i]` with `i >= WIDTH*HEIGHT` (44_accessors.md R193, U7). Raised by the host's port; safe. -/
  | fbIndexOutOfRange (i : Nat)
  /-- Host access to `FB` on an unbuffered instance, where "`FB` does not exist" (10_state.md R28). Raised by the
  host's port; safe. -/
  | noFramebuffer
  /-- Write-memory-continue, emitted by no row of the micro-program (45_wire_commands.md R208), or a position that
  names no row of R125, R175, R181 (10_state.md R23). Raised by its meaning and by `microStep`; safe. -/
  | notInMicroProgram
  deriving DecidableEq, Repr

/-- The state (10_state.md R20, R34). The last five fields are the environment's; `delayOn` is the model's own. -/
structure State where
  /-- The instance's constants (00_scope.md R5; 10_state.md R21): written by nobody. -/
  cfg : Config
  /-- Operand latch `X` (R22). -/
  x : Coord
  /-- Operand latch `Y` (R22). -/
  y : Coord
  /-- Operand latch `C` (R22). -/
  c : Color
  /-- Sequencer position (R23). -/
  seq : Seq
  /-- Wait-start latch, `MSW` bits (R24). -/
  t0 : Nat
  /-- The current `Delay` has made its entry step (40_init_sequencer.md R111). The model's own, log entry 8. -/
  delayOn : Bool
  /-- Reset-line latch `RES` (R26). -/
  res : Line
  /-- Data/command latch `DC` (R27). -/
  dc : Line
  /-- Framebuffer `FB` (R28). -/
  fb : Fb
  /-- Response latch (R30). -/
  rsp : BitVec 16
  /-- The trace `T`, ghost state (R31). -/
  trace : List Event
  /-- Millisecond counter, `MSW` bits, environment (R29). -/
  ms : Nat
  /-- `fb_rdata`, what the host's last framebuffer read returned (R34). Log entry 4. -/
  fbRdata : BitVec 16
  /-- The host's actions not yet honoured, first to be honoured first (R34). Log entry 10. -/
  host : List HostAct
  /-- Whose turn the next steps are. Log entry 9. -/
  turns : List Turn
  /-- The tick source is running (70_reset_and_hazards.md R252, R260). Log entry 9. -/
  tickOn : Bool
  deriving DecidableEq, Repr

/-- The state at power-up, the construction of an instance (10_state.md R35; 70_reset_and_hazards.md R250): `seq = IDLE`,
`RES = DC = U`, `T` empty, the framebuffer unspecified. DESIGN CHOICE, log entry 3, unsafe: `X`, `Y`, `C`, `t0`, `rsp`,
`ms`, which the spec leaves unspecified, are zero. The environment's fields: log entries 4, 9, 10. -/
def State.powerUp (cfg : Config) (draw : Nat) : State where
  cfg := cfg
  x := 0
  y := 0
  c := 0
  seq := .idle
  t0 := 0
  delayOn := false
  res := .u
  dc := .u
  fb := ⟨.unspecified draw, []⟩
  rsp := 0
  trace := []
  ms := 0
  fbRdata := 0
  host := []
  turns := []
  tickOn := true

/-- The machine right after reset: power-up of the default instance (log entry 1). -/
def State.reset : State := .powerUp .default 0

end Sys2Proof.Machine
end

