-- ==== Sys2Proof/Machine/Ops.lean ====
section
/-! DEFINITION. The named operations on the state: field updates, the framebuffer, the pin and transport primitives,
the address window, request acceptance, the two parts of a wire message. -/

namespace Sys2Proof.Machine

abbrev Result := Host.Outcome State Fault Refusal

/-- Apply `f` to the next state, if there is one. -/
def mapNext (f : State → State) : Result → Result
  | .next s => .next (f s)
  | .fault r => .fault r
  | .refused r => .refused r

/-! ### Field updates -/

def State.setSeq (q : Seq) (s : State) : State := { s with seq := q }

/-- Load the operand latches together (10_state.md R22). -/
def State.loadLatches (x y : Coord) (c : Color) (s : State) : State := { s with x := x, y := y, c := c }

def State.setT0 (t : Nat) (s : State) : State := { s with t0 := t }

def State.setDelayOn (b : Bool) (s : State) : State := { s with delayOn := b }

def State.setRes (l : Line) (s : State) : State := { s with res := l }

def State.setDc (l : Line) (s : State) : State := { s with dc := l }

def State.setFb (fb : Fb) (s : State) : State := { s with fb := fb }

def State.setRsp (v : BitVec 16) (s : State) : State := { s with rsp := v }

/-- `emit(e)` (00_scope.md R8): append an event to the trace. -/
def State.emit (e : Event) (s : State) : State := { s with trace := s.trace ++ [e] }

def State.setMs (n : Nat) (s : State) : State := { s with ms := n }

def State.setFbRdata (v : BitVec 16) (s : State) : State := { s with fbRdata := v }

def State.setHost (h : List HostAct) (s : State) : State := { s with host := h }

def State.setTurns (ts : List Turn) (s : State) : State := { s with turns := ts }

def State.setTickOn (b : Bool) (s : State) : State := { s with tickOn := b }

/-! ### The framebuffer -/

/-- The value an unlisted entry is known to hold, or none while it is unspecified. -/
def Background.value : Background → Option Color
  | .unspecified _ => none
  | .zero => some 0

/-- What an unlisted entry reads as: 0 after the zero-fill, a free draw before it (93_implementation_defined.md U8). -/
def Background.read : Background → Nat → Color
  | .unspecified draw, i => Config.freeFb draw i
  | .zero, _ => 0

/-- The value listed for index `i`. -/
def cellAt (i : Nat) : List (Nat × Color) → Option Color
  | [] => none
  | (j, v) :: cs => if j = i then some v else cellAt i cs

/-- Remove the entry of index `i`. -/
def eraseCell (i : Nat) : List (Nat × Color) → List (Nat × Color)
  | [] => []
  | (j, v) :: cs => if j = i then cs else if j < i then (j, v) :: eraseCell i cs else (j, v) :: cs

/-- List the value `v` for index `i`, keeping the indices rising. -/
def insertCell (i : Nat) (v : Color) : List (Nat × Color) → List (Nat × Color)
  | [] => [(i, v)]
  | (j, w) :: cs =>
    if j = i then (i, v) :: cs
    else if j < i then (j, w) :: insertCell i v cs
    else (i, v) :: (j, w) :: cs

/-- `MemRead(i, 2)` (00_scope.md R8; 20_memory.md R51). -/
def Fb.read (fb : Fb) (i : Nat) : Color :=
  match cellAt i fb.cells with
  | some v => v
  | none => fb.background.read i

/-- `MemWrite(i, 2, v)` (00_scope.md R8; 20_memory.md R51): a value equal to the background's is not listed. -/
def Fb.write (fb : Fb) (i : Nat) (v : Color) : Fb :=
  if fb.background.value = some v then { fb with cells := eraseCell i fb.cells }
  else { fb with cells := insertCell i v fb.cells }

/-- INIT stage 8: every entry 0 (40_init_sequencer.md R120). -/
def Fb.zeroFilled : Fb := ⟨.zero, []⟩

/-- Indices strictly rise from `lo` on. -/
def risingFrom (lo : Nat) : List (Nat × Color) → Bool
  | [] => true
  | (j, _) :: cs => decide (lo ≤ j) && risingFrom (j + 1) cs

/-- The canonical form: indices strictly rising, no entry equal to what an unlisted entry is known to hold. -/
def Fb.wf (fb : Fb) : Bool :=
  risingFrom 0 fb.cells && fb.cells.all (fun cell => decide (fb.background.value ≠ some cell.2))

/-- Every listed entry lies below `n`. -/
def Fb.below (fb : Fb) (n : Nat) : Bool := fb.cells.all (fun cell => decide (cell.1 < n))

/-- The colours streamed by REFRESH after the first, `FB[1]` to `FB[WIDTH*HEIGHT-1]` (20_memory.md R54). -/
def Fb.restPixels (fb : Fb) (size : Nat) : List Color := (List.range' 1 (size - 1)).map fb.read

/-! ### Pins and transport (41_framing.md) -/

/-- `PinRes(l)` (41_framing.md R144). -/
def pinRes (l : Level) (s : State) : State := (s.setRes l.line).emit (.res l)

/-- Drive the data/command line: the first half of every write primitive (41_framing.md R141 to R143). -/
def driveDc (l : Level) (s : State) : State := (s.setDc l.line).emit (.dc l)

/-- `WriteCommand(c)` (41_framing.md R141). -/
def writeCommand (c : Byte) (s : State) : State := (driveDc .low s).emit (.tx c)

/-- `WriteData8(b)` (41_framing.md R142). -/
def writeData8 (b : Byte) (s : State) : State := (driveDc .high s).emit (.tx b)

/-- `WriteDataBuf(bs)` (41_framing.md R143). -/
def writeDataBuf (bs : List Byte) (s : State) : State := (driveDc .high s).emit (.txb bs)

/-! ### The address window (42_window.md) -/

/-- `SetWindow(colStart, colEnd, rowStart, rowEnd)` (42_window.md R160): column message, then row message; nothing is
checked (R164) and nothing is remembered (10_state.md R33). -/
def setWindow (cs ce rs re : Coord) (s : State) : State :=
  writeDataBuf (windowBytes rs re)
    (writeCommand s.cfg.cmdRaset
      (writeDataBuf (windowBytes cs ce)
        (writeCommand s.cfg.cmdCaset s)))

/-- `FullWindow` (42_window.md R163). -/
def fullWindow (s : State) : State :=
  setWindow 0 (fullEnd s.cfg.width) 0 (fullEnd s.cfg.height) s

/-! ### Requests and wire messages -/

/-- `seq = IDLE` or not (10_state.md R25): the status flag `busy`. -/
def State.busy (s : State) : Bool :=
  match s.seq with
  | .idle => false
  | .row _ _ => true

/-- Acceptance of a request (10_state.md R22, R23, R34): at IDLE the latches are loaded and `k` happens; while busy the
request "is not accepted; it waits" (60_exceptions.md R223), which leaves the state as it is (log entry 30). -/
def accept (x y : Coord) (c : Color) (k : State → State) (s : State) : Result :=
  if s.busy then .next s else .next (k (s.loadLatches x y c))

/-- The positions at which a wire message's data frames are sent: the `WriteData8` and `WriteDataBuf` rows of the
tables 40_init_sequencer.md R125, 43_pixel_frame.md R175 and R181. -/
def Seq.inParams : Seq → Bool
  | .idle => false
  | .row .init k => k == 9 || k == 13 || k == 15
  | .row .setpixel k => k == 1 || k == 3 || k == 5
  | .row .refresh k => k == 1 || k == 3 || k == 5

/-- One micro-step of a wire message (log entry 12): at a data row its data part, elsewhere its command frame. -/
def sendPart (cmd : Byte) (params : State → State) (s : State) : Result :=
  .next (if s.seq.inParams then params s else writeCommand cmd s)

end Sys2Proof.Machine
end

