-- ==== Sys2Proof/Machine/Requests.lean ====
section
/-! DEFINITION. The meanings of the six requests: the step that accepts a request (10_state.md R23). A request is looked
at only when it is accepted: while busy it waits, whatever it is (60_exceptions.md R223). The micro-steps
that follow an accepted INIT, SETPIXEL or REFRESH are in Micro.lean (log entry 11). -/

namespace Sys2Proof.Machine

/-- INIT (40_init_sequencer.md R110): `seq <- (INIT, 0)`. A second INIT is accepted like the first (R124). -/
def execInit (x y : Coord) (c : Color) (s : State) : Result :=
  accept x y c (·.setSeq (.row .init 0)) s

/-- SETPIXEL (43_pixel_frame.md R170): `seq <- (SETPIXEL, 0)`; out-of-range coordinates are refused (R173). -/
def execSetpixel (x y : Coord) (c : Color) (s : State) : Result :=
  if s.busy || s.cfg.inRange x y then accept x y c (·.setSeq (.row .setpixel 0)) s
  else .refused .coordinatesOutOfRange

/-- REFRESH (43_pixel_frame.md R176): `seq <- (REFRESH, 0)`; reserved when unbuffered (R180). -/
def execRefresh (x y : Coord) (c : Color) (s : State) : Result :=
  if s.busy || s.cfg.buffered then accept x y c (·.setSeq (.row .refresh 0)) s
  else .refused .bufferedOnly

/-- GETWIDTH (44_accessors.md R190): `rsp <- WIDTH`. -/
def execGetwidth (x y : Coord) (c : Color) (s : State) : Result :=
  accept x y c (fun t => t.setRsp t.cfg.width) s

/-- GETHEIGHT (44_accessors.md R191): `rsp <- HEIGHT`. -/
def execGetheight (x y : Coord) (c : Color) (s : State) : Result :=
  accept x y c (fun t => t.setRsp t.cfg.height) s

/-- GETBUFFER (44_accessors.md R192): `rsp <- 0`; reserved when unbuffered (30_encoding.md R91). -/
def execGetbuffer (x y : Coord) (c : Color) (s : State) : Result :=
  if s.busy || s.cfg.buffered then accept x y c (·.setRsp 0) s
  else .refused .bufferedOnly

end Sys2Proof.Machine
end

