-- ==== Sys2Proof/Machine/Wire.lean ====
section
/-! DEFINITION. The meanings of the nine wire commands (45_wire_commands.md): what the sequencer sends. A message with
parameters takes two micro-steps, its command frame and its data frames; the position says which (log entry 12). -/

namespace Sys2Proof.Machine

/-- Software reset (R200). -/
def execSwreset (s : State) : Result := .next (writeCommand s.cfg.cmdSwreset s)

/-- Sleep-out (R201). -/
def execSlpout (s : State) : Result := .next (writeCommand s.cfg.cmdSlpout s)

/-- Inversion-on (R202). -/
def execInvon (s : State) : Result := .next (writeCommand s.cfg.cmdInvon s)

/-- Display-on (R203). -/
def execDispon (s : State) : Result := .next (writeCommand s.cfg.cmdDispon s)

/-- Column-address-set (R204), four data bytes in one call. -/
def execCaset (colStart colEnd : Coord) (s : State) : Result :=
  sendPart s.cfg.cmdCaset (writeDataBuf (windowBytes colStart colEnd)) s

/-- Row-address-set (R205), four data bytes in one call. -/
def execRaset (rowStart rowEnd : Coord) (s : State) : Result :=
  sendPart s.cfg.cmdRaset (writeDataBuf (windowBytes rowStart rowEnd)) s

/-- Memory-write (R206), the pixel bytes in one call. -/
def execRamwr (first : Color) (rest : List Color) (s : State) : Result :=
  sendPart s.cfg.cmdRamwr (writeDataBuf (pixelBytes (first :: rest))) s

/-- Interface-pixel-format (R207), one data byte by a single-byte write (40_init_sequencer.md R116). -/
def execColmod (fmt : Byte) (s : State) : Result :=
  sendPart s.cfg.cmdColmod (writeData8 fmt) s

/-- Write-memory-continue (R208): no operation emits it, "gives it no emission rule". -/
def execRamwrc (_first : Color) (_rest : List Color) (_s : State) : Result :=
  .refused .notInMicroProgram

end Sys2Proof.Machine
end

