-- ==== Sys2Proof/Machine/Dispatch.lean ====
section
/-! DEFINITION. One arm per instruction. -/

namespace Sys2Proof.Machine

def exec (i : Instr) (s : State) : Host.Outcome State Fault Refusal :=
  match i with
  | .init x y c => Sys2Proof.Machine.execInit x y c s
  | .setpixel x y c => Sys2Proof.Machine.execSetpixel x y c s
  | .refresh x y c => Sys2Proof.Machine.execRefresh x y c s
  | .getwidth x y c => Sys2Proof.Machine.execGetwidth x y c s
  | .getheight x y c => Sys2Proof.Machine.execGetheight x y c s
  | .getbuffer x y c => Sys2Proof.Machine.execGetbuffer x y c s
  | .swreset => Sys2Proof.Machine.execSwreset s
  | .slpout => Sys2Proof.Machine.execSlpout s
  | .invon => Sys2Proof.Machine.execInvon s
  | .dispon => Sys2Proof.Machine.execDispon s
  | .caset a b => Sys2Proof.Machine.execCaset a b s
  | .raset a b => Sys2Proof.Machine.execRaset a b s
  | .ramwr p ps => Sys2Proof.Machine.execRamwr p ps s
  | .colmod f => Sys2Proof.Machine.execColmod f s
  | .ramwrc p ps => Sys2Proof.Machine.execRamwrc p ps s

end Sys2Proof.Machine
end

