-- ==== Sys2Proof/Machine/Flags.lean ====
section
/-! DEFINITION. The computed conditions and the outputs of the block: it has one status flag, `busy` (10_state.md R25,
defined in Ops.lean where acceptance needs it), no condition codes, and the wait condition of a Delay. The ports of
10_state.md R34 are functions of the state. -/

namespace Sys2Proof.Machine

/-- `(ms - t0) mod 2^MSW` (10_state.md R24). -/
def State.elapsed (s : State) : Nat :=
  (s.ms + (s.cfg.msMod - s.t0 % s.cfg.msMod)) % s.cfg.msMod

/-- The wait condition of `Delay(n)` (40_init_sequencer.md R111). -/
def State.waitOver (n : Nat) (s : State) : Bool := decide (n ≤ s.elapsed)

/-- The counts of the four `Delay` rows of INIT (40_init_sequencer.md R125), none at any other position. -/
def delayAt (cfg : Config) : Seq → Option Nat
  | .row .init 1 => some cfg.tRstLow
  | .row .init 3 => some cfg.tRstBoot
  | .row .init 5 => some cfg.tSwreset
  | .row .init 7 => some cfg.tSlpout
  | _ => none

/-- The sequencer's next step would be a held poll: a `Delay` has been entered and its condition is false. -/
def State.holding (s : State) : Bool :=
  match delayAt s.cfg s.seq with
  | some n => s.delayOn && !s.waitOver n
  | none => false

/-- The host's action is a request (30_encoding.md R94). -/
def HostAct.isRequest : HostAct → Bool
  | .request _ => true
  | .fbWrite _ _ => false
  | .fbRead _ => false

/-- The run has ended (00_scope.md R12): no request is left to accept and the last one's operation has ended. Framebuffer
accesses that still wait do not prolong it. -/
def State.runEnded (s : State) : Bool := !s.busy && !s.host.any HostAct.isRequest

/-! ### Ports (10_state.md R34) -/

/-- A level on an output port, none while the line has never been driven. -/
def Line.out : Line → Option Level
  | .u => none
  | .low => some .low
  | .high => some .high

/-- `res_out`. -/
def State.resOut (s : State) : Option Level := Line.out s.res

/-- `dc_out`. -/
def State.dcOut (s : State) : Option Level := Line.out s.dc

/-- `ms_in`. -/
def State.msIn (s : State) : Nat := s.ms

/-- `req_valid`. -/
def State.reqValid (s : State) : Bool :=
  match s.host with
  | .request _ :: _ => true
  | _ => false

/-- `req`, while `req_valid` is 1. -/
def State.reqPort (s : State) : Option ReqWord :=
  match s.host with
  | .request w :: _ => some w
  | _ => none

/-- `fb_en`. -/
def State.fbEn (s : State) : Bool :=
  match s.host with
  | .fbWrite _ _ :: _ => true
  | .fbRead _ :: _ => true
  | _ => false

/-- `fb_we`. -/
def State.fbWe (s : State) : Bool :=
  match s.host with
  | .fbWrite _ _ :: _ => true
  | _ => false

/-- `fb_addr`, while `fb_en` is 1. -/
def State.fbAddr (s : State) : Option Nat :=
  match s.host with
  | .fbWrite i _ :: _ => some i
  | .fbRead i :: _ => some i
  | _ => none

/-- `fb_wdata`, while `fb_we` is 1. -/
def State.fbWdata (s : State) : Option Color :=
  match s.host with
  | .fbWrite _ v :: _ => some v
  | _ => none

/-- One beat of the transport port: `tx_byte`, `tx_first`, `tx_last`. -/
structure Beat where
  byte : Byte
  first : Bool
  last : Bool
  deriving DecidableEq, Repr

/-- The beats of one transport call, `first` true for the beat that begins it. -/
def callBeats (first : Bool) : List Byte → List Beat
  | [] => []
  | [b] => [⟨b, first, true⟩]
  | b :: bs => ⟨b, first, false⟩ :: callBeats false bs

/-- The beats an event puts on the transport port, in order. DESIGN CHOICE, log entry 34: the step machine is untimed, so
a beat stands for one presentation of its byte with `tx_valid = 1`, and `tx_valid` is 0 where there is no beat. -/
def Event.beats : Event → List Beat
  | .tx b => callBeats true [b]
  | .txb bs => callBeats true bs
  | .res _ => []
  | .dc _ => []
  | .wait _ => []

end Sys2Proof.Machine
end

