-- ==== Sys2Proof/Machine/Micro.lean ====
section
/-! DEFINITION. The micro-program: the tables 40_init_sequencer.md R125, 43_pixel_frame.md R175 and R181, the Delay,
and the honouring of the host's actions at IDLE. -/

namespace Sys2Proof.Machine

/-- What one row of a micro-step table does. -/
inductive MicroStep
  /-- `PinRes(l)`. -/
  | pin (l : Level)
  /-- `Delay(n)`. -/
  | delay (n : Nat)
  /-- One part of a wire message, its command frame or its data frames. -/
  | wire (i : Instr)
  /-- INIT micro-step 16: the zero-fill of the buffered variant. -/
  | zeroFill
  deriving DecidableEq, Repr

/-- The INIT table (40_init_sequencer.md R125). -/
def initRow (cfg : Config) : Nat → Option MicroStep
  | 0 => some (.pin .low)
  | 1 => some (.delay cfg.tRstLow)
  | 2 => some (.pin .high)
  | 3 => some (.delay cfg.tRstBoot)
  | 4 => some (.wire .swreset)
  | 5 => some (.delay cfg.tSwreset)
  | 6 => some (.wire .slpout)
  | 7 => some (.delay cfg.tSlpout)
  | 8 => some (.wire (.colmod cfg.pixfmt))
  | 9 => some (.wire (.colmod cfg.pixfmt))
  | 10 => some (.wire .invon)
  | 11 => some (.wire .dispon)
  | 12 => some (.wire (.caset 0 (fullEnd cfg.width)))
  | 13 => some (.wire (.caset 0 (fullEnd cfg.width)))
  | 14 => some (.wire (.raset 0 (fullEnd cfg.height)))
  | 15 => some (.wire (.raset 0 (fullEnd cfg.height)))
  | 16 => some .zeroFill
  | _ => none

/-- The SETPIXEL table (43_pixel_frame.md R175), on the operand latches. -/
def setpixelRow (x y : Coord) (c : Color) : Nat → Option MicroStep
  | 0 => some (.wire (.caset x (pixelEnd x)))
  | 1 => some (.wire (.caset x (pixelEnd x)))
  | 2 => some (.wire (.raset y (pixelEnd y)))
  | 3 => some (.wire (.raset y (pixelEnd y)))
  | 4 => some (.wire (.ramwr c []))
  | 5 => some (.wire (.ramwr c []))
  | _ => none

/-- The REFRESH table (43_pixel_frame.md R181), on the configuration and the framebuffer. -/
def refreshRow (cfg : Config) (fb : Fb) : Nat → Option MicroStep
  | 0 => some (.wire (.caset 0 (fullEnd cfg.width)))
  | 1 => some (.wire (.caset 0 (fullEnd cfg.width)))
  | 2 => some (.wire (.raset 0 (fullEnd cfg.height)))
  | 3 => some (.wire (.raset 0 (fullEnd cfg.height)))
  | 4 => some (.wire (.ramwr (fb.read 0) (fb.restPixels cfg.size)))
  | 5 => some (.wire (.ramwr (fb.read 0) (fb.restPixels cfg.size)))
  | _ => none

/-- Row `k` of an operation's table, none where the table has no such row. -/
def rowAt (s : State) : Op → Nat → Option MicroStep
  | .init, k => initRow s.cfg k
  | .setpixel, k => setpixelRow s.x s.y s.c k
  | .refresh, k => refreshRow s.cfg s.fb k

/-- The last row of an operation's table. -/
def Op.last : Op → Nat
  | .init => 16
  | .setpixel => 5
  | .refresh => 5

/-- The position after row `k` (10_state.md R23): the next row, or IDLE after the last. -/
def nextSeq (op : Op) (k : Nat) : Seq := if k < op.last then .row op (k + 1) else .idle

/-- `Delay(n)` (40_init_sequencer.md R111): the entry step latches `ms`; a poll passes when the condition is true, with
the event `WAIT(n)`, and otherwise holds. `next` is the position after the wait. -/
def delayStep (n : Nat) (next : Seq) (s : State) : State :=
  if s.delayOn then
    if s.waitOver n then ((s.emit (.wait n)).setDelayOn false).setSeq next
    else s
  else (s.setT0 s.ms).setDelayOn true

/-- INIT micro-step 16 (40_init_sequencer.md R120). -/
def zeroFill (s : State) : State := if s.cfg.buffered then s.setFb Fb.zeroFilled else s

/-- One micro-step of the sequencer at row `k` of operation `op`. A wire row runs its instruction. -/
def microStep (op : Op) (k : Nat) (s : State) : Result :=
  match rowAt s op k with
  | some (.pin l) => .next ((pinRes l s).setSeq (nextSeq op k))
  | some (.delay n) => .next (delayStep n (nextSeq op k) s)
  | some (.wire i) => mapNext (·.setSeq (nextSeq op k)) (exec i s)
  | some .zeroFill => .next ((zeroFill s).setSeq (nextSeq op k))
  | none => .refused .notInMicroProgram

/-- The host's write of `FB[i]` (44_accessors.md R193). -/
def hostWrite (i : Nat) (v : Color) (s : State) : Result :=
  if s.cfg.buffered then
    if i < s.cfg.size then .next (s.setFb (s.fb.write i v)) else .refused (.fbIndexOutOfRange i)
  else .refused .noFramebuffer

/-- The host's read of `FB[i]` (44_accessors.md R193). -/
def hostRead (i : Nat) (s : State) : Result :=
  if s.cfg.buffered then
    if i < s.cfg.size then .next (s.setFbRdata (s.fb.read i)) else .refused (.fbIndexOutOfRange i)
  else .refused .noFramebuffer

/-- A request word presented at IDLE: decoded and run. -/
def runRequest (w : ReqWord) (s : State) : Result :=
  match decodeRequest w with
  | .ok i => exec i s
  | .error _ => .refused (.reservedRequest (reqOp w))

/-- The sequencer's step at IDLE: honour the host's first action, or do nothing when there is none
(10_state.md R34, R35). -/
def idleStep (s : State) : Result :=
  match s.host with
  | [] => .next s
  | .request w :: rest => mapNext (·.setHost rest) (runRequest w s)
  | .fbWrite i v :: rest => mapNext (·.setHost rest) (hostWrite i v s)
  | .fbRead i :: rest => mapNext (·.setHost rest) (hostRead i s)

/-- The sequencer's step. While busy no host action is honoured: it waits (60_exceptions.md R223). -/
def seqStep (s : State) : Result :=
  match s.seq with
  | .idle => idleStep s
  | .row op k => microStep op k s

/-- The tick source's step, `ms <- (ms + 1) mod 2^MSW` (10_state.md R29); nothing when it is not running. -/
def tickStep (s : State) : State := if s.tickOn then s.setMs ((s.ms + 1) % s.cfg.msMod) else s

/-- Whose turn it is (00_scope.md R11): the first of the given turns. When they are used up, the tick source steps while
a Delay holds and the sequencer otherwise (log entry 9). -/
def State.nextTurn (s : State) : Turn :=
  match s.turns with
  | t :: _ => t
  | [] => if s.holding && s.tickOn then .tick else .sequencer

/-- It is the sequencer's turn. -/
def State.seqTurn (s : State) : Bool := decide (s.nextTurn = .sequencer)

/-- The turn that is being taken is used up. -/
def State.popTurn (s : State) : State := s.setTurns s.turns.tail

/-- What a turn that is not the sequencer's does: a tick, or the tick source stopping or starting
(70_reset_and_hazards.md R252, R260). -/
def environmentStep : Turn → State → State
  | .tick, s => tickStep s
  | .stopTick, s => s.setTickOn false
  | .startTick, s => s.setTickOn true
  | .sequencer, s => s

/-- One step of the agent whose turn it is (00_scope.md R11). -/
def turnStep (s : State) : Result :=
  if s.seqTurn then seqStep s.popTurn else .next (environmentStep s.nextTurn s.popTurn)

/-- The row at which the micro-program sends a command byte (40_init_sequencer.md R125, 43_pixel_frame.md R175); a
position outside the tables for a byte that no row sends. -/
def commandSeq (cfg : Config) (b : Byte) : Seq :=
  if b = cfg.cmdSwreset then .row .init 4
  else if b = cfg.cmdSlpout then .row .init 6
  else if b = cfg.cmdColmod then .row .init 8
  else if b = cfg.cmdInvon then .row .init 10
  else if b = cfg.cmdDispon then .row .init 11
  else if b = cfg.cmdCaset then .row .init 12
  else if b = cfg.cmdRaset then .row .init 14
  else if b = cfg.cmdRamwr then .row .setpixel 4
  else .row .setpixel 6

/-- Place an opcode-table word where the next step runs it (log entry 13): a request word at the head of the host's
queue with the sequencer idle; a command byte by the position of the row that sends it. The next turn is the
sequencer's. -/
def placeWord (s : State) (nbits w : Nat) : State :=
  if nbits ≤ 8 then
    { s with seq := commandSeq s.cfg (BitVec.ofNat 8 w), delayOn := false, turns := .sequencer :: s.turns }
  else
    { s with
      seq := .idle
      delayOn := false
      host := .request (BitVec.ofNat 51 w) :: s.host
      turns := .sequencer :: s.turns }

end Sys2Proof.Machine
end

