-- ==== Sys2Proof/Machine/Step.lean ====
section
/-! DEFINITION. One step of the machine, and where an opcode-table word is placed for the next step. -/

namespace Sys2Proof.Machine

/-- One step: one agent moves (00_scope.md R11). -/
def step (s : State) : Host.Outcome State Fault Refusal := turnStep s

/-- The state in which the very next step runs the opcode-table word `w` (log entry 13). -/
def State.withFetchWord (s : State) (nbits w : Nat) : State := placeWord s nbits w

end Sys2Proof.Machine
end

