-- ==== Sys2Proof/Machine/Trace.lean ====
section
/-! DEFINITION. What is read off a trace (00_scope.md R9, R10): frames, wire equivalence, wire messages, and what the
wire has programmed (10_state.md R32). Nothing here is state. -/

namespace Sys2Proof.Machine

/-- The level of the data/command line after some events, from the level `d`. -/
def lastDc (d : Line) : List Event → Line
  | [] => d
  | .dc l :: es => lastDc l.line es
  | .res _ :: es => lastDc d es
  | .tx _ :: es => lastDc d es
  | .txb _ :: es => lastDc d es
  | .wait _ :: es => lastDc d es

/-- The level of the reset line after some events, from the level `d`. -/
def lastRes (d : Line) : List Event → Line
  | [] => d
  | .res l :: es => lastRes l.line es
  | .dc _ :: es => lastRes d es
  | .tx _ :: es => lastRes d es
  | .txb _ :: es => lastRes d es
  | .wait _ :: es => lastRes d es

/-- The frames of some events, the data/command line being at `d` before them (00_scope.md R10). -/
def framesFrom (d : Line) : List Event → List Frame
  | [] => []
  | .dc l :: es => framesFrom l.line es
  | .tx b :: es => ⟨d, b⟩ :: framesFrom d es
  | .txb bs :: es => bs.map (fun b => ⟨d, b⟩) ++ framesFrom d es
  | .res _ :: es => framesFrom d es
  | .wait _ :: es => framesFrom d es

/-- `frames(T)` (00_scope.md R10), the line never driven at the start. -/
def frames (es : List Event) : List Frame := framesFrom .u es

/-- The subsequence of the `RES` events, by level. -/
def resEvents : List Event → List Level
  | [] => []
  | .res l :: es => l :: resEvents es
  | .dc _ :: es => resEvents es
  | .tx _ :: es => resEvents es
  | .txb _ :: es => resEvents es
  | .wait _ :: es => resEvents es

/-- The subsequence of the `WAIT` events, each with the number of frames before it, `n` frames having come earlier. -/
def waitMarks (n : Nat) : List Event → List (Nat × Nat)
  | [] => []
  | .wait k :: es => (n, k) :: waitMarks n es
  | .tx _ :: es => waitMarks (n + 1) es
  | .txb bs :: es => waitMarks (n + bs.length) es
  | .res _ :: es => waitMarks n es
  | .dc _ :: es => waitMarks n es

/-- The sum of the `WAIT` events (40_init_sequencer.md R122). -/
def waitSum : List Event → Nat
  | [] => 0
  | .wait k :: es => k + waitSum es
  | .tx _ :: es => waitSum es
  | .txb _ :: es => waitSum es
  | .res _ :: es => waitSum es
  | .dc _ :: es => waitSum es

/-- Two traces are wire-equivalent (00_scope.md R10). -/
def wireEquiv (a b : List Event) : Bool :=
  decide (frames a = frames b) && decide (resEvents a = resEvents b)
  && decide (waitMarks 0 a = waitMarks 0 b)

/-- A wire message: a command byte and the parameter bytes that belong to it (30_encoding.md R82). -/
structure Message where
  cmd : Byte
  params : List Byte
  deriving DecidableEq, Repr

/-- The data bytes before the first command frame, and the messages from there on (30_encoding.md R93). -/
def splitMessages : List Frame → List Byte × List Message
  | [] => ([], [])
  | f :: fs =>
    let r := splitMessages fs
    match f.dc with
    | .low => ([], ⟨f.byte, r.1⟩ :: r.2)
    | .high => (f.byte :: r.1, r.2)
    | .u => (f.byte :: r.1, r.2)

/-- The wire messages of a trace. -/
def messages (es : List Event) : List Message := (splitMessages (frames es)).2

/-- The command bytes of a trace, in order. -/
def commands (es : List Event) : List Byte := (messages es).map (·.cmd)

/-- The parameter bytes sent so far of the last message with command byte `cmd`. DESIGN CHOICE, log entries 35 and 36: a
software reset in between is looked past, and a message whose data is still due counts, with the bytes sent so far. -/
def lastParams (cmd : Byte) : List Message → Option (List Byte)
  | [] => none
  | m :: ms =>
    match lastParams cmd ms with
    | some ps => some ps
    | none => if m.cmd = cmd then some m.params else none

/-- The start and the end that four parameter bytes carry (30_encoding.md R84). -/
def windowOf : List Byte → Option (Coord × Coord)
  | [a, b, c, d] => some (ofBytes a b, ofBytes c d)
  | _ => none

/-- The column window last programmed (10_state.md R32, 45_wire_commands.md R204): "the controller itself retains the
window chip-side until changed". A function of the trace, log entry 21; none also while the data of the last message is due, log entry 36. -/
def columnWindow (cfg : Config) (es : List Event) : Option (Coord × Coord) :=
  (lastParams cfg.cmdCaset (messages es)).bind windowOf

/-- The row window last programmed (10_state.md R32, 45_wire_commands.md R205). -/
def rowWindow (cfg : Config) (es : List Event) : Option (Coord × Coord) :=
  (lastParams cfg.cmdRaset (messages es)).bind windowOf

/-- The one byte that an interface-pixel-format message carries (30_encoding.md R88). -/
def formatOf : List Byte → Option Byte
  | [b] => some b
  | _ => none

/-- The interface pixel format last programmed (10_state.md R32, 45_wire_commands.md R207). -/
def pixelFormat (cfg : Config) (es : List Event) : Option Byte :=
  (lastParams cfg.cmdColmod (messages es)).bind formatOf

/-- Every memory write is preceded, with no other message between, by one column message and one row message of four
bytes each (42_window.md R162). `p2`, `p1` are the two messages before. -/
def windowBeforeWrite (cfg : Config) (p2 p1 : Option Message) : List Message → Bool
  | [] => true
  | m :: ms =>
    (decide (m.cmd ≠ cfg.cmdRamwr)
      || (match p2, p1 with
          | some a, some b =>
            decide (a.cmd = cfg.cmdCaset) && decide (a.params.length = 4)
            && decide (b.cmd = cfg.cmdRaset) && decide (b.params.length = 4)
          | _, _ => false))
    && windowBeforeWrite cfg p1 (some m) ms

end Sys2Proof.Machine
end

