-- ==== Sys2Proof/Safety.lean ====
section
/-! DEFINITION. What counts as a safe state and a safe trace, in the terms the claims use. -/

namespace Sys2Proof.Machine

/-- The position is IDLE or a row of the operation's table (10_state.md R23). -/
def Seq.legal : Seq → Bool
  | .idle => true
  | .row op k => decide (k ≤ op.last)

/-- The level `RES` has at each position (10_state.md R26): low between INIT's rows 0 and 2, high on INIT's later rows,
not low anywhere else. -/
def resLevelOk (q : Seq) (l : Line) : Bool :=
  match q with
  | .row .init k =>
    if k = 0 then decide (l ≠ .low) else if k ≤ 2 then decide (l = .low) else decide (l = .high)
  | .idle => decide (l ≠ .low)
  | .row .setpixel _ => decide (l ≠ .low)
  | .row .refresh _ => decide (l ≠ .low)

/-- The level `DC` has at each position (10_state.md R27, 41_framing.md R145): low where the data of a message is due,
high at INIT's last row, not low at IDLE. -/
def dcLevelOk (q : Seq) (l : Line) : Bool :=
  (!q.inParams || decide (l = .low))
  && (decide (q ≠ .row .init 16) || decide (l = .high))
  && (decide (q ≠ .idle) || decide (l ≠ .low))

/-- An operation in progress is one the instance offers, with its operands in range (30_encoding.md R91,
43_pixel_frame.md R173). -/
def opOk (s : State) : Bool :=
  match s.seq with
  | .idle => true
  | .row .init _ => true
  | .row .setpixel _ => s.cfg.inRange s.x s.y
  | .row .refresh _ => s.cfg.buffered

/-- The framebuffer is in canonical form, within its size, and absent from an unbuffered instance (10_state.md R28). -/
def fbOk (s : State) : Bool :=
  s.fb.wf && s.fb.below s.cfg.size && (s.cfg.buffered || s.fb.cells.isEmpty)

/-- The invariant of the machine: legal configuration and position, counters within `MSW` bits, the wait bit only at a
Delay, line latches as the trace and the position say, the framebuffer canonical. -/
def State.inv (s : State) : Bool :=
  s.cfg.wf
  && s.seq.legal
  && decide (s.ms < s.cfg.msMod)
  && decide (s.t0 < s.cfg.msMod)
  && (!s.delayOn || (delayAt s.cfg s.seq).isSome)
  && resLevelOk s.seq s.res
  && dcLevelOk s.seq s.dc
  && decide (lastRes .u s.trace = s.res)
  && decide (lastDc .u s.trace = s.dc)
  && opOk s
  && fbOk s

/-! ### The traces of whole operations -/

/-- The four writes of `SetWindow` as events (42_window.md R160). -/
def windowEvents (cfg : Config) (cs ce rs re : Coord) : List Event :=
  [.dc .low, .tx cfg.cmdCaset, .dc .high, .txb (windowBytes cs ce),
   .dc .low, .tx cfg.cmdRaset, .dc .high, .txb (windowBytes rs re)]

/-- The eight events of `FullWindow` (42_window.md R163). -/
def fullWindowEvents (cfg : Config) : List Event :=
  windowEvents cfg 0 (fullEnd cfg.width) 0 (fullEnd cfg.height)

/-- The 26 events of one INIT (40_init_sequencer.md R121). -/
def initEvents (cfg : Config) : List Event :=
  [.res .low, .wait cfg.tRstLow, .res .high, .wait cfg.tRstBoot,
   .dc .low, .tx cfg.cmdSwreset, .wait cfg.tSwreset,
   .dc .low, .tx cfg.cmdSlpout, .wait cfg.tSlpout,
   .dc .low, .tx cfg.cmdColmod, .dc .high, .tx cfg.pixfmt,
   .dc .low, .tx cfg.cmdInvon, .dc .low, .tx cfg.cmdDispon] ++ fullWindowEvents cfg

/-- The 12 events of one SETPIXEL (43_pixel_frame.md R170). -/
def setpixelEvents (cfg : Config) (x y : Coord) (c : Color) : List Event :=
  windowEvents cfg x (pixelEnd x) y (pixelEnd y)
    ++ [.dc .low, .tx cfg.cmdRamwr, .dc .high, .txb (be16 c)]

/-- The 12 events of one REFRESH that streams the pixels `ps` (43_pixel_frame.md R176). -/
def refreshEvents (cfg : Config) (ps : List Color) : List Event :=
  fullWindowEvents cfg ++ [.dc .low, .tx cfg.cmdRamwr, .dc .high, .txb (pixelBytes ps)]

/-- The whole framebuffer in index order, `FB[0]` to `FB[WIDTH*HEIGHT-1]` (20_memory.md R54). -/
def Fb.pixels (fb : Fb) (size : Nat) : List Color := (List.range size).map fb.read

/-- How many events an operation has appended when it stands at row `k` (the tables R125, R175, R181). -/
def eventsBefore : Op → Nat → Nat
  | .init, k =>
    if k ≤ 4 then k
    else if k ≤ 5 then 6
    else if k ≤ 6 then 7
    else if k ≤ 7 then 9
    else if k ≤ 8 then 10
    else 10 + 2 * (k - 8)
  | .setpixel, k => 2 * k
  | .refresh, k => 2 * k

/-- The events the operation in progress has appended. -/
def State.partialEvents (s : State) : List Event :=
  match s.seq with
  | .idle => []
  | .row .init k => (initEvents s.cfg).take (eventsBefore .init k)
  | .row .setpixel k => (setpixelEvents s.cfg s.x s.y s.c).take (eventsBefore .setpixel k)
  | .row .refresh k =>
    (refreshEvents s.cfg (s.fb.pixels s.cfg.size)).take (eventsBefore .refresh k)

/-- One completed operation that left events in the trace. -/
inductive Done
  | init
  | setpixel (x y : Coord) (c : Color)
  | refresh (pixels : List Color)
  deriving DecidableEq, Repr

/-- The events of a completed operation. -/
def Done.events (cfg : Config) : Done → List Event
  | .init => initEvents cfg
  | .setpixel x y c => setpixelEvents cfg x y c
  | .refresh ps => refreshEvents cfg ps

/-- A completed operation that the instance offers: coordinates in range, the whole buffer sent. -/
def Done.ok (cfg : Config) : Done → Bool
  | .init => true
  | .setpixel x y _ => cfg.inRange x y
  | .refresh ps => cfg.buffered && decide (ps.length = cfg.size)

/-- The trace is the whole traces of completed operations, one after another, followed by what the operation in
progress has appended so far (20_memory.md R63: "every event of an earlier operation precedes every event of a later
one"). -/
def WellTraced (s : State) : Prop :=
  ∃ ops : List Done,
    (∀ o ∈ ops, o.ok s.cfg = true)
    ∧ s.trace = ops.flatMap (Done.events s.cfg) ++ s.partialEvents

/-! ### Runs without end

A state holds finitely many turns. A run without end takes its turns from a schedule, turn `i` for step `i`; every order of
the agents' steps is a schedule (log entries 9 and 37). -/

/-- The schedule after its first turn. -/
def laterTurns (turns : Nat → Turn) : Nat → Turn := fun i => turns (i + 1)

/-- `k` steps whose turns are given by a schedule, stopping at the first fault or refusal. -/
def runUnder (turns : Nat → Turn) : Nat → State → Result
  | 0, s => .next s
  | k + 1, s =>
    match step (s.setTurns [turns 0]) with
    | .next t => runUnder (laterTurns turns) k t
    | .fault r => .fault r
    | .refused r => .refused r

/-- Whether the tick source is running at turn `i` of a schedule, `on` saying whether it is at the start. -/
def tickRunning (turns : Nat → Turn) (on : Bool) : Nat → Bool
  | 0 => on
  | i + 1 =>
    match turns i with
    | .stopTick => false
    | .startTick => true
    | .tick => tickRunning turns on i
    | .sequencer => tickRunning turns on i

/-- Weak fairness of the tick source (70_reset_and_hazards.md R260): it steps, running, infinitely often. -/
def FairTicks (turns : Nat → Turn) (on : Bool) : Prop :=
  ∀ n, ∃ i, n ≤ i ∧ turns i = .tick ∧ tickRunning turns on i = true

/-- No tick happens while the tick source is running: it is not started, has stopped, or is masked for ever
(70_reset_and_hazards.md R260). -/
def NoTicks (turns : Nat → Turn) (on : Bool) : Prop :=
  ∀ i, turns i = .tick → tickRunning turns on i = false

/-- The sequencer steps between any two ticks, so that it polls before the wait condition can become false again
(40_init_sequencer.md R111). -/
def PollsBetweenTicks (turns : Nat → Turn) : Prop :=
  ∀ a b, a < b → turns a = .tick → turns b = .tick → ∃ i, a < i ∧ i < b ∧ turns i = .sequencer

/-- How many of the next `k` steps are ticks of `ms`. -/
def ticksIn : Nat → State → Nat
  | 0, _ => 0
  | k + 1, s =>
    match step s with
    | .next s' => (if s'.ms = s.ms then 0 else 1) + ticksIn k s'
    | .fault _ => 0
    | .refused _ => 0

end Sys2Proof.Machine
end

