-- ==== Sys2Proof/Certificates/Slice0/Obligations.lean ====
section
/-! DEFINITION. The statements for the provers. Each holds for every configuration: the command bytes, `PIXFMT`, the
dimensions and the waits are fields of `s.cfg`, and no statement but the concrete ones of tier 1 uses a value of theirs. -/

namespace Sys2Proof.Claims

open Sys2Proof.Machine

/-- The events of the rows of 40_init_sequencer.md R125 that are no Delay. -/
def initRowEvents (cfg : Config) : Nat → List Event
  | 0 => [.res .low]
  | 2 => [.res .high]
  | 4 => [.dc .low, .tx cfg.cmdSwreset]
  | 6 => [.dc .low, .tx cfg.cmdSlpout]
  | 8 => [.dc .low, .tx cfg.cmdColmod]
  | 9 => [.dc .high, .tx cfg.pixfmt]
  | 10 => [.dc .low, .tx cfg.cmdInvon]
  | 11 => [.dc .low, .tx cfg.cmdDispon]
  | 12 => [.dc .low, .tx cfg.cmdCaset]
  | 13 => [.dc .high, .txb [0, 0, hi (cfg.width - 1), lo (cfg.width - 1)]]
  | 14 => [.dc .low, .tx cfg.cmdRaset]
  | 15 => [.dc .high, .txb [0, 0, hi (cfg.height - 1), lo (cfg.height - 1)]]
  | _ => []

/-- The Delay rows of 40_init_sequencer.md R125 and their counts. -/
def initDelays (cfg : Config) : List (Nat × Nat) :=
  [(1, cfg.tRstLow), (3, cfg.tRstBoot), (5, cfg.tSwreset), (7, cfg.tSlpout)]

/-- The events of the rows of 43_pixel_frame.md R175. -/
def setpixelRowEvents (cfg : Config) (x y : Coord) (c : Color) : Nat → List Event
  | 0 => [.dc .low, .tx cfg.cmdCaset]
  | 1 => [.dc .high, .txb [hi x, lo x, hi (x + 1), lo (x + 1)]]
  | 2 => [.dc .low, .tx cfg.cmdRaset]
  | 3 => [.dc .high, .txb [hi y, lo y, hi (y + 1), lo (y + 1)]]
  | 4 => [.dc .low, .tx cfg.cmdRamwr]
  | 5 => [.dc .high, .txb [hi c, lo c]]
  | _ => []

/-- The byte stream `be16(FB[0]) ++ ... ++ be16(FB[n-1])` of 20_memory.md R54. -/
def stream (fb : Fb) (n : Nat) : List Byte :=
  (List.range n).flatMap (fun i => [hi (fb.read i), lo (fb.read i)])

/-- The events of the rows of 43_pixel_frame.md R181. -/
def refreshRowEvents (cfg : Config) (fb : Fb) : Nat → List Event
  | 0 => [.dc .low, .tx cfg.cmdCaset]
  | 1 => [.dc .high, .txb [0, 0, hi (cfg.width - 1), lo (cfg.width - 1)]]
  | 2 => [.dc .low, .tx cfg.cmdRaset]
  | 3 => [.dc .high, .txb [0, 0, hi (cfg.height - 1), lo (cfg.height - 1)]]
  | 4 => [.dc .low, .tx cfg.cmdRamwr]
  | 5 => [.dc .high, .txb (stream fb (cfg.width.toNat * cfg.height.toNat))]
  | _ => []

/-- The 26 events of 40_init_sequencer.md R121. -/
def initTrace (cfg : Config) : List Event :=
  [.res .low, .wait cfg.tRstLow, .res .high, .wait cfg.tRstBoot,
   .dc .low, .tx cfg.cmdSwreset, .wait cfg.tSwreset,
   .dc .low, .tx cfg.cmdSlpout, .wait cfg.tSlpout,
   .dc .low, .tx cfg.cmdColmod, .dc .high, .tx cfg.pixfmt,
   .dc .low, .tx cfg.cmdInvon, .dc .low, .tx cfg.cmdDispon,
   .dc .low, .tx cfg.cmdCaset, .dc .high, .txb [0, 0, hi (cfg.width - 1), lo (cfg.width - 1)],
   .dc .low, .tx cfg.cmdRaset, .dc .high, .txb [0, 0, hi (cfg.height - 1), lo (cfg.height - 1)]]

/-- The 12 events of 43_pixel_frame.md R176. -/
def refreshTrace (cfg : Config) (fb : Fb) : List Event :=
  [.dc .low, .tx cfg.cmdCaset, .dc .high, .txb [0, 0, hi (cfg.width - 1), lo (cfg.width - 1)],
   .dc .low, .tx cfg.cmdRaset, .dc .high, .txb [0, 0, hi (cfg.height - 1), lo (cfg.height - 1)],
   .dc .low, .tx cfg.cmdRamwr, .dc .high, .txb (stream fb (cfg.width.toNat * cfg.height.toNat))]

/-- The sum of the four waits (40_init_sequencer.md R122). -/
def waits (cfg : Config) : Nat := cfg.tRstLow + cfg.tRstBoot + cfg.tSwreset + cfg.tSlpout

/-- The number of steps of one INIT when the tick source steps only while a Delay holds: acceptance, thirteen rows that
are no Delay, and for each Delay its entry step, its ticks and its passing poll. -/
def initSteps (cfg : Config) : Nat := 22 + waits cfg

end Sys2Proof.Claims

open Sys2Proof Sys2Proof.Machine Sys2Proof.Claims

/-! ### Power-up -/

/-- 10_state.md R35: what every power-up leaves. The values the spec calls unspecified are not stated, but for the
framebuffer, whose entries are free values (log entry 6). The block does nothing until the host presents a request:
at power-up, and on the sequencer's turn of every state at IDLE with nothing presented, a step changes nothing but the
used-up turn. The spec's decisions D1, D8, D13; the empty host queue and the turns are log entries 9 and 10. -/
def Obligations.PowerUpState : Prop :=
  (∀ (cfg : Config) (draw : Nat),
    (State.powerUp cfg draw).cfg = cfg
    ∧ (State.powerUp cfg draw).seq = .idle
    ∧ (State.powerUp cfg draw).busy = false
    ∧ (State.powerUp cfg draw).res = .u
    ∧ (State.powerUp cfg draw).dc = .u
    ∧ (State.powerUp cfg draw).trace = []
    ∧ (∀ i, (State.powerUp cfg draw).fb.read i = Config.freeFb draw i)
    ∧ step (State.powerUp cfg draw) = .next (State.powerUp cfg draw)
    ∧ State.reset = State.powerUp Config.default 0)
  ∧ (∀ s : State, s.seqTurn = true → s.seq = .idle → s.host = [] →
      step s = .next { s with turns := s.turns.tail })

/-- The invariant holds at power-up of every legal instance, the reset state among them, and so does `WellTraced`. At
the reset state it rests on log entries 1 and 3. -/
def Obligations.InvariantAtPowerUp : Prop :=
  State.reset.inv = true
  ∧ WellTraced State.reset
  ∧ ∀ (cfg : Config) (draw : Nat), cfg.wf = true →
      (State.powerUp cfg draw).inv = true ∧ WellTraced (State.powerUp cfg draw)

/-! ### Encoding -/

/-- 30_encoding.md R82 to R90: decoding the encoding of an instruction gives it back, for all fifteen rows and every
operand, on every instance with distinct command bytes. The request layout is the spec's decision D3. -/
def Obligations.DecodeAfterEncode : Prop :=
  ∀ (cfg : Config) (i : Instr), cfg.wf = true → decode cfg (encode cfg i) = .ok i

/-- 30_encoding.md R82 to R91: an encoding that decodes is the encoding of what it decodes to, so no two encodings
name one instruction of the model and no bit is dropped. For requests this is the model's choice, log entry 11: every
request keeps its operand fields, because the latches are loaded from them (10_state.md R22), while in the sense of
R89 and R110, where all but SETPIXEL ignore them, many words are the same request. The request layout is the spec's
decision D3. -/
def Obligations.EncodeAfterDecode : Prop :=
  ∀ (cfg : Config) (code : Code) (i : Instr), decode cfg code = .ok i → encode cfg i = code

/-- Words of 95_test_vectors.md and messages of 45_wire_commands.md decode to what they stand for (the wire bytes are
the PRESUMED defaults of log entry 2). -/
def Obligations.SpecWordsDecode : Prop :=
  decodeRequest 0x1000000000000 = .ok (.init 0 0 0)
  ∧ decodeRequest 0x2000A0005F800 = .ok (.setpixel 10 5 0xF800)
  ∧ decodeRequest 0x201FF010000FF = .ok (.setpixel 0x01FF 0x0100 0x00FF)
  ∧ decodeRequest 0x3000000000000 = .ok (.refresh 0 0 0)
  ∧ decodeRequest 0x4000000000000 = .ok (.getwidth 0 0 0)
  ∧ decodeRequest 0x5000000000000 = .ok (.getheight 0 0 0)
  ∧ decodeRequest 0x6000000000000 = .ok (.getbuffer 0 0 0)
  ∧ decodeRequest 0x0000000000000 = .error (.reservedOp 0)
  ∧ decodeRequest 0x7000000000000 = .error (.reservedOp 7)
  ∧ decodeMessage .default [⟨.low, 0x01⟩] = .ok .swreset
  ∧ decodeMessage .default
      [⟨.low, 0x2A⟩, ⟨.high, 0x00⟩, ⟨.high, 0x0A⟩, ⟨.high, 0x00⟩, ⟨.high, 0x0B⟩] = .ok (.caset 10 11)
  ∧ decodeMessage .default
      [⟨.low, 0x2B⟩, ⟨.high, 0x00⟩, ⟨.high, 0x05⟩, ⟨.high, 0x00⟩, ⟨.high, 0x06⟩] = .ok (.raset 5 6)
  ∧ decodeMessage .default [⟨.low, 0x2C⟩, ⟨.high, 0xF8⟩, ⟨.high, 0x00⟩] = .ok (.ramwr 0xF800 [])
  ∧ decodeMessage .default [⟨.low, 0x3A⟩, ⟨.high, 0x55⟩] = .ok (.colmod 0x55)

/-- 00_scope.md R7, 30_encoding.md R83: the two bytes of a 16-bit value, high byte first. -/
def Obligations.BytesAreBigEndian : Prop :=
  ∀ v : BitVec 16,
    be16 v = [hi v, lo v] ∧ (hi v).toNat = v.toNat / 256 ∧ (lo v).toNat = v.toNat % 256

/-! ### Primitives and the address window -/

/-- 41_framing.md R141 to R144: what each primitive changes, and nothing else, with the frames of the three writes. -/
def Obligations.FramingPrimitives : Prop :=
  (∀ (b : Byte) (s : State),
    writeCommand b s = { s with dc := .low, trace := s.trace ++ [.dc .low, .tx b] }
    ∧ frames (writeCommand b s).trace = frames s.trace ++ [⟨.low, b⟩])
  ∧ (∀ (b : Byte) (s : State),
    writeData8 b s = { s with dc := .high, trace := s.trace ++ [.dc .high, .tx b] }
    ∧ frames (writeData8 b s).trace = frames s.trace ++ [⟨.high, b⟩])
  ∧ (∀ (bs : List Byte) (s : State),
    writeDataBuf bs s = { s with dc := .high, trace := s.trace ++ [.dc .high, .txb bs] }
    ∧ frames (writeDataBuf bs s).trace = frames s.trace ++ bs.map (fun b => ⟨.high, b⟩))
  ∧ (∀ s : State,
    pinRes .low s = { s with res := .low, trace := s.trace ++ [.res .low] }
    ∧ pinRes .high s = { s with res := .high, trace := s.trace ++ [.res .high] })

/-- 42_window.md R160, R164: `SetWindow` appends exactly eight events, whatever the four numbers, and leaves everything
but `DC` (high) and the trace. -/
def Obligations.SetWindowEvents : Prop :=
  ∀ (cs ce rs re : Coord) (s : State),
    setWindow cs ce rs re s =
      { s with
        dc := .high
        trace := s.trace ++
          [.dc .low, .tx s.cfg.cmdCaset, .dc .high, .txb [hi cs, lo cs, hi ce, lo ce],
           .dc .low, .tx s.cfg.cmdRaset, .dc .high, .txb [hi rs, lo rs, hi re, lo re]] }
    ∧ frames (setWindow cs ce rs re s).trace = frames s.trace ++
        [⟨.low, s.cfg.cmdCaset⟩, ⟨.high, hi cs⟩, ⟨.high, lo cs⟩, ⟨.high, hi ce⟩, ⟨.high, lo ce⟩,
         ⟨.low, s.cfg.cmdRaset⟩, ⟨.high, hi rs⟩, ⟨.high, lo rs⟩, ⟨.high, hi re⟩, ⟨.high, lo re⟩]

/-- 42_window.md R163, 20_memory.md R62: the full-screen window, its frames, the rows of INIT and REFRESH that send it;
it ends at dimension - 1 with no wrap, start <= end, and its bytes for the dimensions the rule lists. -/
def Obligations.FullWindowBytes : Prop :=
  (∀ s : State,
    fullWindow s = setWindow 0 (s.cfg.width - 1) 0 (s.cfg.height - 1) s
    ∧ frames (fullWindow s).trace = frames s.trace ++
        [⟨.low, s.cfg.cmdCaset⟩, ⟨.high, 0⟩, ⟨.high, 0⟩, ⟨.high, hi (s.cfg.width - 1)⟩,
         ⟨.high, lo (s.cfg.width - 1)⟩,
         ⟨.low, s.cfg.cmdRaset⟩, ⟨.high, 0⟩, ⟨.high, 0⟩, ⟨.high, hi (s.cfg.height - 1)⟩,
         ⟨.high, lo (s.cfg.height - 1)⟩])
  ∧ (∀ s : State, ∀ p ∈ [(Op.init, 13), (Op.refresh, 1)],
      rowAt s p.1 p.2 = some (.wire (.caset 0 (s.cfg.width - 1))))
  ∧ (∀ s : State, ∀ p ∈ [(Op.init, 15), (Op.refresh, 3)],
      rowAt s p.1 p.2 = some (.wire (.raset 0 (s.cfg.height - 1))))
  ∧ (∀ dim : Coord, dim ≠ 0 →
      (fullEnd dim).toNat = dim.toNat - 1 ∧ (0 : Coord).toNat ≤ (fullEnd dim).toNat
      ∧ (fullEnd dim).toNat < dim.toNat)
  ∧ windowBytes 0 (fullEnd 1) = [0x00, 0x00, 0x00, 0x00]
  ∧ windowBytes 0 (fullEnd 256) = [0x00, 0x00, 0x00, 0xFF]
  ∧ windowBytes 0 (fullEnd 257) = [0x00, 0x00, 0x01, 0x00]
  ∧ windowBytes 0 (fullEnd 65535) = [0x00, 0x00, 0xFF, 0xFE]
  ∧ windowBytes 0 (fullEnd 240) = [0x00, 0x00, 0x00, 0xEF]
  ∧ windowBytes 0 (fullEnd 320) = [0x00, 0x00, 0x01, 0x3F]

/-- 43_pixel_frame.md R171, R172: the end bound of the single-pixel window that SETPIXEL sends is start + 1 in 16
bits, exact for every in-range coordinate and not clamped: it is the dimension itself at the last column or row, and
only there does it exceed dimension - 1 (20_memory.md R62). The sum modulo 2^16 and its wrap at 0xFFFF are the spec's
decision D6. -/
def Obligations.PixelEndBounds : Prop :=
  (∀ s : State,
    rowAt s .setpixel 1 = some (.wire (.caset s.x (pixelEnd s.x)))
    ∧ rowAt s .setpixel 3 = some (.wire (.raset s.y (pixelEnd s.y))))
  ∧ (∀ x : Coord, (pixelEnd x).toNat = (x.toNat + 1) % 2 ^ 16)
  ∧ (∀ x : Coord, x ≠ 0xFFFF → (pixelEnd x).toNat = x.toNat + 1)
  ∧ (∀ x dim : Coord, x.toNat < dim.toNat →
      (pixelEnd x).toNat = x.toNat + 1
      ∧ x.toNat ≤ (pixelEnd x).toNat
      ∧ (dim.toNat - 1 < (pixelEnd x).toNat ↔ x.toNat = dim.toNat - 1))
  ∧ pixelEnd 0xFFFF = 0x0000
  ∧ be16 (pixelEnd 0x00FF) = [0x01, 0x00]
  ∧ be16 (pixelEnd 0x01FF) = [0x02, 0x00]
  ∧ windowBytes 0 (pixelEnd 0) = [0x00, 0x00, 0x00, 0x01]
  ∧ windowBytes 239 (pixelEnd 239) = [0x00, 0xEF, 0x00, 0xF0]
  ∧ windowBytes 319 (pixelEnd 319) = [0x01, 0x3F, 0x01, 0x40]

/-! ### Requests -/

/-- 40_init_sequencer.md R110, R124; 10_state.md R22, R23: at IDLE an INIT is accepted, the first and every later one:
the latches are loaded and the position is (INIT, 0); nothing else changes. Acceptance as a step of its own: log entry
11; the second INIT: decision D21. -/
def Obligations.InitIsAccepted : Prop :=
  ∀ (x y : Coord) (c : Color) (s : State), s.seq = .idle →
    exec (.init x y c) s = .next { s with x := x, y := y, c := c, seq := .row .init 0 }

/-- 43_pixel_frame.md R170, R173: at IDLE a SETPIXEL in range is accepted, one out of range is refused. The refusal:
decision D23, log entry 14. -/
def Obligations.SetpixelIsAcceptedInRange : Prop :=
  ∀ (x y : Coord) (c : Color) (s : State), s.seq = .idle →
    (x.toNat < s.cfg.width.toNat → y.toNat < s.cfg.height.toNat →
      exec (.setpixel x y c) s = .next { s with x := x, y := y, c := c, seq := .row .setpixel 0 })
    ∧ (s.cfg.width.toNat ≤ x.toNat ∨ s.cfg.height.toNat ≤ y.toNat →
      exec (.setpixel x y c) s = .refused .coordinatesOutOfRange)

/-- 43_pixel_frame.md R176, R180: at IDLE a REFRESH is accepted on a buffered instance, refused on an unbuffered one.
The refusal: decision D4, log entry 15. -/
def Obligations.RefreshIsAcceptedWhenBuffered : Prop :=
  ∀ (x y : Coord) (c : Color) (s : State), s.seq = .idle →
    (s.cfg.buffered = true →
      exec (.refresh x y c) s = .next { s with x := x, y := y, c := c, seq := .row .refresh 0 })
    ∧ (s.cfg.buffered = false → exec (.refresh x y c) s = .refused .bufferedOnly)

/-- 44_accessors.md R190: GETWIDTH, its encoding, its one step, what it leaves, the worked example. The response
latch: decision D35. -/
def Obligations.GetwidthReturnsWidth : Prop :=
  (∀ (x y : Coord) (c : Color) (s : State), s.seq = .idle →
    exec (.getwidth x y c) s = .next { s with x := x, y := y, c := c, rsp := s.cfg.width })
  ∧ decodeRequest 0x4000000000000 = .ok (.getwidth 0 0 0)
  ∧ (∀ s t : State, s.seq = .idle → s.cfg.width = 240 → exec (.getwidth 0 0 0) s = .next t →
      t.rsp = 0x00F0)

/-- 44_accessors.md R191: GETHEIGHT, as R190. The response latch: decision D35. -/
def Obligations.GetheightReturnsHeight : Prop :=
  (∀ (x y : Coord) (c : Color) (s : State), s.seq = .idle →
    exec (.getheight x y c) s = .next { s with x := x, y := y, c := c, rsp := s.cfg.height })
  ∧ decodeRequest 0x5000000000000 = .ok (.getheight 0 0 0)
  ∧ (∀ s t : State, s.seq = .idle → s.cfg.height = 320 → exec (.getheight 0 0 0) s = .next t →
      t.rsp = 0x0140)

/-- 44_accessors.md R192: GETBUFFER answers 0 on a buffered instance and is reserved on an unbuffered one. The value
0: decision D24; the refusal: decision D4, log entry 15. -/
def Obligations.GetbufferReturnsZero : Prop :=
  (∀ (x y : Coord) (c : Color) (s : State), s.seq = .idle →
    (s.cfg.buffered = true →
      exec (.getbuffer x y c) s = .next { s with x := x, y := y, c := c, rsp := 0 })
    ∧ (s.cfg.buffered = false → exec (.getbuffer x y c) s = .refused .bufferedOnly))
  ∧ decodeRequest 0x6000000000000 = .ok (.getbuffer 0 0 0)

/-- 10_state.md R34, 60_exceptions.md R223: while the sequencer is busy a request is not accepted, it
waits; no step of the busy sequencer takes anything from the host's queue. Waiting leaves the state: log entries 10
and 30. -/
def Obligations.RequestsWaitWhileBusy : Prop :=
  (∀ (i : Instr) (s : State), s.busy = true → i.isRequest = true → exec i s = .next s)
  ∧ ∀ s t : State, s.busy = true → step s = .next t → t.host = s.host

/-- 30_encoding.md R91: the request opcodes that name no operation are refused. Decision D4, log entry 15. -/
def Obligations.ReservedRequestsAreRefused : Prop :=
  ∀ (s : State) (w : ReqWord) (rest : List HostAct),
    s.seqTurn = true → s.seq = .idle → s.host = .request w :: rest →
    (w.extractLsb' 48 3 = 0 ∨ w.extractLsb' 48 3 = 7 →
      step s = .refused (.reservedRequest (w.extractLsb' 48 3)))
    ∧ (s.cfg.buffered = false → w.extractLsb' 48 3 = 3 ∨ w.extractLsb' 48 3 = 6 →
      step s = .refused .bufferedOnly)

/-! ### Wire commands -/

/-- 45_wire_commands.md R200 to R203: the four commands without parameters, each its command frame. -/
def Obligations.BareCommandsSendOneFrame : Prop :=
  ∀ s : State,
    exec .swreset s =
      .next { s with dc := .low, trace := s.trace ++ [.dc .low, .tx s.cfg.cmdSwreset] }
    ∧ exec .slpout s =
      .next { s with dc := .low, trace := s.trace ++ [.dc .low, .tx s.cfg.cmdSlpout] }
    ∧ exec .invon s =
      .next { s with dc := .low, trace := s.trace ++ [.dc .low, .tx s.cfg.cmdInvon] }
    ∧ exec .dispon s =
      .next { s with dc := .low, trace := s.trace ++ [.dc .low, .tx s.cfg.cmdDispon] }

/-- 45_wire_commands.md R204, R205; 30_encoding.md R84: the two window commands send their command frame, and at a
data row their four bytes in one call. Which part is sent depends on the position: log entry 12. -/
def Obligations.WindowCommandsSendFourBytes : Prop :=
  ∀ (a b : Coord) (s : State),
    (s.seq.inParams = false →
      exec (.caset a b) s =
        .next { s with dc := .low, trace := s.trace ++ [.dc .low, .tx s.cfg.cmdCaset] }
      ∧ exec (.raset a b) s =
        .next { s with dc := .low, trace := s.trace ++ [.dc .low, .tx s.cfg.cmdRaset] })
    ∧ (s.seq.inParams = true →
      exec (.caset a b) s =
        .next { s with dc := .high, trace := s.trace ++ [.dc .high, .txb [hi a, lo a, hi b, lo b]] }
      ∧ exec (.raset a b) s =
        .next { s with dc := .high, trace := s.trace ++ [.dc .high, .txb [hi a, lo a, hi b, lo b]] })

/-- 45_wire_commands.md R206; 20_memory.md R53: memory-write sends its command frame, and at a data row two bytes for
each pixel, high byte first, in one call. Which part is sent depends on the position: log entry 12; one call: decision
D16. -/
def Obligations.MemoryWriteSendsPixels : Prop :=
  ∀ (p : Color) (ps : List Color) (s : State),
    (s.seq.inParams = false →
      exec (.ramwr p ps) s =
        .next { s with dc := .low, trace := s.trace ++ [.dc .low, .tx s.cfg.cmdRamwr] })
    ∧ (s.seq.inParams = true →
      exec (.ramwr p ps) s =
        .next { s with
          dc := .high
          trace := s.trace ++ [.dc .high, .txb ((p :: ps).flatMap (fun q => [hi q, lo q]))] })

/-- 45_wire_commands.md R207; 40_init_sequencer.md R116: interface-pixel-format sends its command frame, and at a data
row its one byte by a single-byte write. Which part is sent depends on the position: log entry 12. -/
def Obligations.PixelFormatSendsOneByte : Prop :=
  ∀ (f : Byte) (s : State),
    (s.seq.inParams = false →
      exec (.colmod f) s =
        .next { s with dc := .low, trace := s.trace ++ [.dc .low, .tx s.cfg.cmdColmod] })
    ∧ (s.seq.inParams = true →
      exec (.colmod f) s =
        .next { s with dc := .high, trace := s.trace ++ [.dc .high, .tx f] })

/-- 45_wire_commands.md R208, 30_encoding.md R92: write-memory-continue has no emission rule: the model stops on it by
name, and no row of any table is it. Log entry 16. -/
def Obligations.MemoryContinueIsNeverSent : Prop :=
  ∀ (p : Color) (ps : List Color) (s : State),
    exec (.ramwrc p ps) s = .refused .notInMicroProgram
    ∧ ∀ (op : Op) (k : Nat), rowAt s op k ≠ some (.wire (.ramwrc p ps))

/-! ### The step -/

/-- A step at IDLE runs the decoded request at the head of the host's queue and takes it from the queue. The turns and
the queue: log entries 9 and 10. -/
def Obligations.StepRunsDecodedRequest : Prop :=
  ∀ (s : State) (w : ReqWord) (rest : List HostAct) (i : Instr),
    s.seqTurn = true → s.seq = .idle → s.host = .request w :: rest → decodeRequest w = .ok i →
    step s = mapNext (fun t => { t with host := rest }) (exec i { s with turns := s.turns.tail })

/-- A step at a row that sends a part of a wire message runs that wire command and advances the position. The turns
and the two parts of a message: log entries 9 and 12. -/
def Obligations.StepRunsWireCommand : Prop :=
  ∀ (s : State) (op : Op) (k : Nat) (i : Instr),
    s.seqTurn = true → s.seq = .row op k → rowAt s op k = some (.wire i) →
    step s = mapNext (fun t => { t with seq := if k < op.last then .row op (k + 1) else .idle })
      (exec i { s with turns := s.turns.tail })

/-- 10_state.md R29: the tick source's step adds one to `ms` modulo `2^MSW` and changes nothing else but the used-up
turn, whether the turn was given or is the default one of a held Delay. The other clauses are the model's choice, log
entry 9: when a step is the tick source's, that a tick source that is not running leaves `ms`, and the turns by which it
stops and starts (70_reset_and_hazards.md R252, R260). The wrap is the spec's decision D9. -/
def Obligations.TickIncrementsCounter : Prop :=
  ∀ s : State,
    (s.nextTurn = .tick ↔
      s.turns.head? = some .tick ∨ (s.turns = [] ∧ s.holding = true ∧ s.tickOn = true))
    ∧ (s.seqTurn = false ↔ s.nextTurn = .tick ∨ s.nextTurn = .stopTick ∨ s.nextTurn = .startTick)
    ∧ (s.nextTurn = .tick → s.tickOn = true →
      step s = .next { s with ms := (s.ms + 1) % 2 ^ s.cfg.msw, turns := s.turns.tail })
    ∧ (s.nextTurn = .tick → s.tickOn = false → step s = .next { s with turns := s.turns.tail })
    ∧ (s.nextTurn = .stopTick → step s = .next { s with tickOn := false, turns := s.turns.tail })
    ∧ (s.nextTurn = .startTick → step s = .next { s with tickOn := true, turns := s.turns.tail })

/-- 40_init_sequencer.md R125: each row of INIT's table that is no Delay, its events, its next position, and what it
leaves unchanged. Decisions D8 and D25. -/
def Obligations.InitTableRows : Prop :=
  ∀ (s : State) (k : Nat), s.seqTurn = true → s.seq = .row .init k → k ≤ 16 →
    k ∉ (initDelays s.cfg).map Prod.fst →
    step s = .next { s with
      turns := s.turns.tail
      seq := if k = 16 then .idle else .row .init (k + 1)
      res := if k = 0 then .low else if k = 2 then .high else s.res
      dc := lastDc s.dc (initRowEvents s.cfg k)
      fb := if k = 16 ∧ s.cfg.buffered = true then ⟨.zero, []⟩ else s.fb
      trace := s.trace ++ initRowEvents s.cfg k }

/-- 40_init_sequencer.md R111, R125; 10_state.md R24: the Delay rows of INIT: the entry step, the held poll, the
passing poll. The bit `delayOn` is log entry 8; the loop is decision D10. -/
def Obligations.DelayRows : Prop :=
  ∀ (s : State) (k n : Nat), s.seqTurn = true → s.seq = .row .init k → (k, n) ∈ initDelays s.cfg →
    (s.delayOn = false →
      step s = .next { s with turns := s.turns.tail, t0 := s.ms, delayOn := true })
    ∧ (s.delayOn = true → ((s.ms : Int) - s.t0) % (2 ^ s.cfg.msw : Nat) < n →
      step s = .next { s with turns := s.turns.tail })
    ∧ (s.delayOn = true → (n : Int) ≤ ((s.ms : Int) - s.t0) % (2 ^ s.cfg.msw : Nat) →
      step s = .next { s with
        turns := s.turns.tail
        delayOn := false
        seq := .row .init (k + 1)
        trace := s.trace ++ [.wait n] })

/-- 40_init_sequencer.md R111, the worked example across the wrap of a 32-bit counter: the poll holds at differences 1
to 9 and passes at 10. Decisions D9 and D10. -/
def Obligations.DelayAcrossTheWrap : Prop :=
  ∀ s : State, s.cfg.msw = 32 → s.t0 = 0xFFFFFFFA →
    (s.ms = 0xFFFFFFFB → s.waitOver 10 = false)
    ∧ (s.ms = 0xFFFFFFFF → s.waitOver 10 = false)
    ∧ (s.ms = 0 → s.waitOver 10 = false)
    ∧ (s.ms = 3 → s.waitOver 10 = false)
    ∧ (s.ms = 4 → s.waitOver 10 = true)

/-- 43_pixel_frame.md R175: each row of SETPIXEL's table; none holds. Decision D8. -/
def Obligations.SetpixelTableRows : Prop :=
  ∀ (s : State) (k : Nat), s.seqTurn = true → s.seq = .row .setpixel k → k ≤ 5 →
    step s = .next { s with
      turns := s.turns.tail
      seq := if k = 5 then .idle else .row .setpixel (k + 1)
      dc := lastDc s.dc (setpixelRowEvents s.cfg s.x s.y s.c k)
      trace := s.trace ++ setpixelRowEvents s.cfg s.x s.y s.c k }

/-- 43_pixel_frame.md R181: each row of REFRESH's table; none holds; the last reads the whole of `FB`. Decision D8. -/
def Obligations.RefreshTableRows : Prop :=
  ∀ (s : State) (k : Nat), s.cfg.wf = true → s.seqTurn = true → s.seq = .row .refresh k → k ≤ 5 →
    step s = .next { s with
      turns := s.turns.tail
      seq := if k = 5 then .idle else .row .refresh (k + 1)
      dc := lastDc s.dc (refreshRowEvents s.cfg s.fb k)
      trace := s.trace ++ refreshRowEvents s.cfg s.fb k }

/-- 44_accessors.md R193: the host's framebuffer port at IDLE, one entry a step, nothing appended to the trace; an
index out of range, and any access on an unbuffered instance, is refused. Log entries 4, 10, 17; decision D24. -/
def Obligations.HostPortAccess : Prop :=
  ∀ (s : State) (i : Nat) (v : Color) (rest : List HostAct),
    s.seqTurn = true → s.seq = .idle →
    (s.host = .fbWrite i v :: rest → s.cfg.buffered = true → i < s.cfg.width.toNat * s.cfg.height.toNat →
      step s = .next { s with turns := s.turns.tail, host := rest, fb := s.fb.write i v })
    ∧ (s.host = .fbRead i :: rest → s.cfg.buffered = true → i < s.cfg.width.toNat * s.cfg.height.toNat →
      step s = .next { s with turns := s.turns.tail, host := rest, fbRdata := s.fb.read i })
    ∧ (s.host = .fbWrite i v :: rest ∨ s.host = .fbRead i :: rest → s.cfg.buffered = true →
      s.cfg.width.toNat * s.cfg.height.toNat ≤ i → step s = .refused (.fbIndexOutOfRange i))
    ∧ (s.host = .fbWrite i v :: rest ∨ s.host = .fbRead i :: rest → s.cfg.buffered = false →
      step s = .refused .noFramebuffer)

/-! ### Whole operations -/

/-- 43_pixel_frame.md R170, R174 (the source's first testable property): from the presented request to IDLE again,
seven steps, 12 events, exactly the 13 frames; the framebuffer, `RES`, `rsp`, `t0`, `ms` are what they were. That no
turns are given is log entry 9, the acceptance step log entry 11. -/
def Obligations.SetpixelSendsThirteenFrames : Prop :=
  ∀ (s : State) (w : ReqWord) (rest : List HostAct) (x y : Coord) (c : Color),
    s.seq = .idle → s.turns = [] → s.host = .request w :: rest →
    decodeRequest w = .ok (.setpixel x y c) →
    x.toNat < s.cfg.width.toNat → y.toNat < s.cfg.height.toNat →
    ∃ t : State, Sys2Proof.core.run 7 s = .next t
      ∧ t = { s with
          x := x, y := y, c := c, seq := .idle, dc := .high, host := rest
          trace := s.trace ++
            [.dc .low, .tx s.cfg.cmdCaset, .dc .high, .txb [hi x, lo x, hi (x + 1), lo (x + 1)],
             .dc .low, .tx s.cfg.cmdRaset, .dc .high, .txb [hi y, lo y, hi (y + 1), lo (y + 1)],
             .dc .low, .tx s.cfg.cmdRamwr, .dc .high, .txb [hi c, lo c]] }
      ∧ frames t.trace = frames s.trace ++
          [⟨.low, s.cfg.cmdCaset⟩, ⟨.high, hi x⟩, ⟨.high, lo x⟩, ⟨.high, hi (x + 1)⟩, ⟨.high, lo (x + 1)⟩,
           ⟨.low, s.cfg.cmdRaset⟩, ⟨.high, hi y⟩, ⟨.high, lo y⟩, ⟨.high, hi (y + 1)⟩, ⟨.high, lo (y + 1)⟩,
           ⟨.low, s.cfg.cmdRamwr⟩, ⟨.high, hi c⟩, ⟨.high, lo c⟩]

/-- 43_pixel_frame.md R176, R177 (the source's third testable property): a REFRESH sends the full-screen window, the
memory-write command and the whole framebuffer in one call, `2*WIDTH*HEIGHT` bytes; the framebuffer is unchanged. That
no turns are given is log entry 9, the acceptance step log entry 11. -/
def Obligations.RefreshSendsWholeBuffer : Prop :=
  ∀ (s : State) (w : ReqWord) (rest : List HostAct) (x y : Coord) (c : Color),
    s.cfg.wf = true → s.cfg.buffered = true →
    s.seq = .idle → s.turns = [] → s.host = .request w :: rest →
    decodeRequest w = .ok (.refresh x y c) →
    Sys2Proof.core.run 7 s = .next { s with
      x := x, y := y, c := c, seq := .idle, dc := .high, host := rest
      trace := s.trace ++ refreshTrace s.cfg s.fb }
    ∧ (stream s.fb (s.cfg.width.toNat * s.cfg.height.toNat)).length
        = s.cfg.width.toNat * s.cfg.height.toNat * 2

/-- 43_pixel_frame.md R178 (the source's fourth testable property): two REFRESH in a row append the same events twice
and leave the framebuffer; the events are a function of the dimensions, three command bytes and the framebuffer alone.
That no turns are given is log entry 9, the acceptance step log entry 11. -/
def Obligations.RefreshIsIdempotent : Prop :=
  ∀ (s : State) (w1 w2 : ReqWord) (rest : List HostAct) (x1 y1 x2 y2 : Coord) (c1 c2 : Color),
    s.cfg.wf = true → s.cfg.buffered = true →
    s.seq = .idle → s.turns = [] → s.host = .request w1 :: .request w2 :: rest →
    decodeRequest w1 = .ok (.refresh x1 y1 c1) → decodeRequest w2 = .ok (.refresh x2 y2 c2) →
    (∃ t : State, Sys2Proof.core.run 14 s = .next t
      ∧ t.trace = s.trace ++ refreshTrace s.cfg s.fb ++ refreshTrace s.cfg s.fb
      ∧ t.fb = s.fb ∧ t.seq = .idle)
    ∧ (∀ cfg : Config, cfg.width = s.cfg.width → cfg.height = s.cfg.height →
        cfg.cmdCaset = s.cfg.cmdCaset → cfg.cmdRaset = s.cfg.cmdRaset → cfg.cmdRamwr = s.cfg.cmdRamwr →
        refreshTrace cfg s.fb = refreshTrace s.cfg s.fb)

/-- 40_init_sequencer.md R110, R121, R122; 70_reset_and_hazards.md R251: one whole INIT with ticks only while a Delay
holds: exactly the 26 events, `ms` advanced by exactly the sum of the four waits, `RES` and `DC` high, the framebuffer
of a buffered instance all zero. The ticks are those of log entry 9, the acceptance step that of log entry 11. -/
def Obligations.InitRunsToIdle : Prop :=
  ∀ (s : State) (w : ReqWord) (rest : List HostAct) (x y : Coord) (c : Color),
    s.cfg.wf = true → s.ms < 2 ^ s.cfg.msw → s.delayOn = false → s.tickOn = true →
    s.seq = .idle → s.turns = [] → s.host = .request w :: rest →
    decodeRequest w = .ok (.init x y c) →
    Sys2Proof.core.run (initSteps s.cfg) s = .next { s with
      x := x, y := y, c := c, seq := .idle
      t0 := (s.ms + s.cfg.tRstLow + s.cfg.tRstBoot + s.cfg.tSwreset) % 2 ^ s.cfg.msw
      res := .high, dc := .high
      fb := if s.cfg.buffered = true then ⟨.zero, []⟩ else s.fb
      ms := (s.ms + waits s.cfg) % 2 ^ s.cfg.msw
      host := rest
      trace := s.trace ++ initTrace s.cfg }
    ∧ (initTrace s.cfg).length = 26 ∧ (frames (initTrace s.cfg)).length = 16
    ∧ waitSum (initTrace s.cfg) = waits s.cfg

/-- 40_init_sequencer.md R124: a second INIT performs the same micro-steps and appends the same events, and zero-fills
again: an entry the host writes between the two reads as written before the second and as 0 after it. Decision D21;
the ticks are those of log entry 9, the acceptance steps those of log entry 11. -/
def Obligations.SecondInitIsLikeTheFirst : Prop :=
  ∀ (s : State) (w1 w2 : ReqWord) (rest : List HostAct) (x1 y1 x2 y2 : Coord) (c1 c2 : Color),
    s.cfg.wf = true → s.ms < 2 ^ s.cfg.msw → s.delayOn = false → s.tickOn = true →
    s.seq = .idle → s.turns = [] →
    decodeRequest w1 = .ok (.init x1 y1 c1) → decodeRequest w2 = .ok (.init x2 y2 c2) →
    (s.host = .request w1 :: .request w2 :: rest →
      ∃ t : State, Sys2Proof.core.run (initSteps s.cfg + initSteps s.cfg) s = .next t
        ∧ t.trace = s.trace ++ initTrace s.cfg ++ initTrace s.cfg
        ∧ t.seq = .idle ∧ t.res = .high ∧ t.dc = .high
        ∧ (s.cfg.buffered = true → ∀ j, t.fb.read j = 0)
        ∧ (s.cfg.buffered = false → t.fb = s.fb))
    ∧ (∀ (i : Nat) (v : Color), s.cfg.buffered = true → i < s.cfg.width.toNat * s.cfg.height.toNat →
      s.host = .request w1 :: .fbWrite i v :: .request w2 :: rest →
      ∃ u t : State, Sys2Proof.core.run (initSteps s.cfg + 1) s = .next u
        ∧ u.fb.read i = v
        ∧ Sys2Proof.core.run (initSteps s.cfg + 1 + initSteps s.cfg) s = .next t
        ∧ t.trace = s.trace ++ initTrace s.cfg ++ initTrace s.cfg
        ∧ t.seq = .idle ∧ t.res = .high ∧ t.dc = .high
        ∧ ∀ j, t.fb.read j = 0)

/-! ### Timing -/

/-- 40_init_sequencer.md R112, 70_reset_and_hazards.md R254: under every interleaving, from the entry of a Delay(n) of
INIT to the row after it at least `n` ticks pass. -/
def Obligations.DelayIsALowerBound : Prop :=
  ∀ (m : Nat) (s t : State) (k n : Nat),
    (k, n) ∈ initDelays s.cfg → s.seq = .row .init k → s.delayOn = false →
    Sys2Proof.core.run m s = .next t → t.seq = .row .init (k + 1) →
    n ≤ ticksIn m s

/-- 70_reset_and_hazards.md R260: if the tick source does not run and is not started again, a Delay whose condition is
false holds for ever: after any number of steps the sequencer is busy at the same row, with the same trace and the same
pending requests. The turns are log entry 9. -/
def Obligations.StoppedTickHangs : Prop :=
  ∀ (m : Nat) (s : State), s.tickOn = false → .startTick ∉ s.turns → s.holding = true →
    ∃ t : State, Sys2Proof.core.run m s = .next t
      ∧ t.seq = s.seq ∧ t.busy = true ∧ t.trace = s.trace ∧ t.host = s.host ∧ t.ms = s.ms

/-! ### Rules of every step -/

/-- 10_state.md R23: where the position can go in one step. It moves to the next row, or from the last row to IDLE; it
stays only on a tick or at a Delay; from IDLE it goes to row 0 of an operation or stays. -/
def Obligations.PositionAdvancesInOrder : Prop :=
  ∀ s t : State, step s = .next t →
    (s.seq = .idle → t.seq = .idle ∨ ∃ op : Op, t.seq = .row op 0)
    ∧ ∀ (op : Op) (k : Nat), s.seq = .row op k →
        t.seq = (if k < op.last then .row op (k + 1) else .idle)
        ∨ (t.seq = s.seq ∧ (s.seqTurn = false ∨ (op = .init ∧ k ∈ [1, 3, 5, 7])))

/-- 10_state.md R21: no step and no instruction writes a configuration constant. -/
def Obligations.ConfigurationIsConstant : Prop :=
  (∀ s t : State, step s = .next t → t.cfg = s.cfg)
  ∧ ∀ (i : Instr) (s t : State), exec i s = .next t → t.cfg = s.cfg

/-- 10_state.md R28, 43_pixel_frame.md R174 (invariant 6 of 95_test_vectors.md): the framebuffer changes only by INIT's
zero-fill on a buffered instance and by the host's write at IDLE. -/
def Obligations.FramebufferWriters : Prop :=
  ∀ s t : State, step s = .next t →
    t.fb = s.fb
    ∨ (s.seq = .row .init 16 ∧ s.cfg.buffered = true ∧ t.fb = ⟨.zero, []⟩)
    ∨ (∃ (i : Nat) (v : Color), s.seq = .idle ∧ s.cfg.buffered = true
        ∧ i < s.cfg.width.toNat * s.cfg.height.toNat
        ∧ s.host.head? = some (.fbWrite i v) ∧ t.fb = s.fb.write i v)

/-- 10_state.md R26 (invariant 3 of 95_test_vectors.md): only INIT's rows 0 and 2 write `RES`, low and high. -/
def Obligations.ResetLineWriters : Prop :=
  ∀ s t : State, step s = .next t →
    t.res = s.res
    ∨ (s.seq = .row .init 0 ∧ t.res = .low)
    ∨ (s.seq = .row .init 2 ∧ t.res = .high)

/-- 10_state.md R29, R24: only a tick changes `ms`, and by one modulo `2^MSW`; only the entry step of a Delay changes
`t0`, to the value of `ms`; only the turns that stop and start the tick source change `tickOn` (log entry 9). -/
def Obligations.CounterAndWaitLatchWriters : Prop :=
  ∀ s t : State, step s = .next t →
    (t.ms = s.ms ∨ (s.nextTurn = .tick ∧ s.tickOn = true ∧ t.ms = (s.ms + 1) % 2 ^ s.cfg.msw))
    ∧ (t.tickOn = s.tickOn
      ∨ (s.nextTurn = .stopTick ∧ t.tickOn = false) ∨ (s.nextTurn = .startTick ∧ t.tickOn = true))
    ∧ (t.t0 = s.t0
      ∨ (s.delayOn = false ∧ t.delayOn = true ∧ t.t0 = s.ms
          ∧ ∃ k ∈ [1, 3, 5, 7], s.seq = .row .init k))

/-- 10_state.md R22, R30: the operand latches change only at the step that takes a request at IDLE, to the fields of
its word; `rsp` changes only there, to the width, the height or 0. -/
def Obligations.LatchAndResponseWriters : Prop :=
  ∀ s t : State, step s = .next t →
    (t.x = s.x ∧ t.y = s.y ∧ t.c = s.c ∧ t.rsp = s.rsp)
    ∨ (∃ w : ReqWord, s.seq = .idle ∧ s.host.head? = some (.request w)
        ∧ t.x = w.extractLsb' 32 16 ∧ t.y = w.extractLsb' 16 16 ∧ t.c = w.extractLsb' 0 16
        ∧ ((w.extractLsb' 48 3 = 1 ∨ w.extractLsb' 48 3 = 2 ∨ w.extractLsb' 48 3 = 3) ∧ t.rsp = s.rsp
          ∨ w.extractLsb' 48 3 = 4 ∧ t.rsp = s.cfg.width
          ∨ w.extractLsb' 48 3 = 5 ∧ t.rsp = s.cfg.height
          ∨ w.extractLsb' 48 3 = 6 ∧ t.rsp = 0))

/-- 10_state.md R31; 20_memory.md R63; 30_encoding.md R92; 41_framing.md R140: the trace only grows, by the events of
at most one primitive a step; every byte goes out right after its line was driven, a command byte is one of the eight,
never write-memory-continue. -/
def Obligations.StepEmitsOnePrimitive : Prop :=
  ∀ s t : State, step s = .next t →
    ∃ es : List Event, t.trace = s.trace ++ es
      ∧ (es = []
        ∨ (∃ l : Level, es = [.res l])
        ∨ (∃ n : Nat, es = [.wait n])
        ∨ (∃ b : Byte, es = [.dc .low, .tx b] ∧ b ∈ s.cfg.emittedBytes
            ∧ (s.cfg.wf = true → b ≠ s.cfg.cmdRamwrc))
        ∨ (∃ b : Byte, es = [.dc .high, .tx b])
        ∨ (∃ bs : List Byte, bs ≠ [] ∧ es = [.dc .high, .txb bs]))

/-- 60_exceptions.md R220, 44_accessors.md R194: an operation in progress never stops: from every state that meets the
invariant and is busy, a step answers a next state. -/
def Obligations.BusyNeverStops : Prop :=
  ∀ s : State, s.inv = true → s.busy = true → ∃ t : State, step s = .next t

/-- 60_exceptions.md R223: every refusal is decided at IDLE on what the host presents and the configuration alone, for
one of the reasons the statement lists: those of R223, and an access where there is no framebuffer, which is the
model's choice, log entry 17. -/
def Obligations.RefusalsAreAtTheBoundary : Prop :=
  ∀ (s : State) (r : Refusal), s.inv = true → step s = .refused r →
    s.seq = .idle
    ∧ ((∃ w : ReqWord, s.host.head? = some (.request w)
        ∧ ((r = .reservedRequest (w.extractLsb' 48 3)
              ∧ (w.extractLsb' 48 3 = 0 ∨ w.extractLsb' 48 3 = 7))
          ∨ (r = .bufferedOnly ∧ s.cfg.buffered = false
              ∧ (w.extractLsb' 48 3 = 3 ∨ w.extractLsb' 48 3 = 6))
          ∨ (r = .coordinatesOutOfRange ∧ w.extractLsb' 48 3 = 2
              ∧ (s.cfg.width.toNat ≤ (w.extractLsb' 32 16).toNat
                ∨ s.cfg.height.toNat ≤ (w.extractLsb' 16 16).toNat))))
      ∨ (∃ i : Nat, (s.host.head? = some (.fbRead i) ∨ ∃ v, s.host.head? = some (.fbWrite i v))
        ∧ ((r = .noFramebuffer ∧ s.cfg.buffered = false)
          ∨ (r = .fbIndexOutOfRange i ∧ s.cfg.width.toNat * s.cfg.height.toNat ≤ i))))

/-! ### Invariants -/

/-- Every step keeps the invariant: legal position, counters within their width, `RES` and `DC` at the level the
position and the trace say, the framebuffer canonical and within its size. -/
def Obligations.InvariantIsKept : Prop :=
  ∀ s t : State, s.inv = true → step s = .next t → t.inv = true

/-- 20_memory.md R63, 10_state.md R33, 40_init_sequencer.md R121, 43_pixel_frame.md R170, R176: under every interleaving
the trace stays a sequence of whole operation traces followed by the part the current operation has sent. -/
def Obligations.TraceIsWholeOperations : Prop :=
  ∀ s t : State, s.inv = true → WellTraced s → step s = .next t → WellTraced t

/-- 42_window.md R162, 10_state.md R33 (invariant 5 of 95_test_vectors.md): in every well-traced state each memory write
is preceded, with no other message between, by a column message and a row message of four bytes. -/
def Obligations.WindowBeforeEveryWrite : Prop :=
  ∀ s : State, s.inv = true → WellTraced s →
    windowBeforeWrite s.cfg none none (messages s.trace) = true

/-- 10_state.md R32, 45_wire_commands.md R204, R205: after the events of one `SetWindow`, whatever came before, the
windows last programmed on the wire are its four numbers. What the wire has programmed is read off the trace: log
entry 21. -/
def Obligations.WindowIsProgrammed : Prop :=
  ∀ (cfg : Config) (es : List Event) (cs ce rs re : Coord), cfg.wf = true →
    columnWindow cfg (es ++ windowEvents cfg cs ce rs re) = some (cs, ce)
    ∧ rowWindow cfg (es ++ windowEvents cfg cs ce rs re) = some (rs, re)

/-- 20_memory.md R58, 00_scope.md R10: a buffer write and the single-byte writes of its bytes are wire-equivalent,
wherever they stand in a trace. -/
def Obligations.BufferWriteEqualsByteWrites : Prop :=
  ∀ (before after : List Event) (bs : List Byte),
    wireEquiv (before ++ .txb bs :: after) (before ++ (bs.map .tx ++ after)) = true

/-- 10_state.md R34: a transport call of `k >= 1` bytes is `k` beats, in order, the first one marked first and the
last one marked last. The ports are the spec's decision D2. -/
def Obligations.BeatsOfATransportCall : Prop :=
  ∀ bs : List Byte, bs ≠ [] →
    (Event.beats (.txb bs)).map Beat.byte = bs
    ∧ ∀ (i : Nat) (b : Beat), (Event.beats (.txb bs))[i]? = some b →
        b.first = decide (i = 0) ∧ b.last = decide (i + 1 = bs.length)

/-! ### The framebuffer -/

/-- A read after a write of the same entry gives the value written, and a write leaves every other entry alone. The
representation is log entry 7. -/
def Obligations.ReadAfterWrite : Prop :=
  ∀ (fb : Fb) (i j : Nat) (v : Color), fb.wf = true →
    (fb.write i v).read j = if j = i then v else fb.read j

/-- Equal contents are equal data: two canonical zero-filled framebuffers that read alike everywhere are the same. The
representation is log entry 7. -/
def Obligations.CanonicalFormIsUnique : Prop :=
  ∀ a b : Fb, a.wf = true → b.wf = true → a.background = .zero → b.background = .zero →
    (∀ i, a.read i = b.read i) → a = b

/-- 20_memory.md R51: in-range pixels have indices within the framebuffer, and different pixels different indices. The
formula is the spec's decision D19. -/
def Obligations.RowMajorIndexIsInjective : Prop :=
  ∀ (cfg : Config) (x y x' y' : Coord),
    x.toNat < cfg.width.toNat → y.toNat < cfg.height.toNat →
    x'.toNat < cfg.width.toNat → y'.toNat < cfg.height.toNat →
    fbIndex cfg x y = y.toNat * cfg.width.toNat + x.toNat
    ∧ fbIndex cfg x y < cfg.width.toNat * cfg.height.toNat
    ∧ (fbIndex cfg x y = fbIndex cfg x' y' → x = x' ∧ y = y')

/-- 43_pixel_frame.md R177, 20_memory.md R54: byte `2*i` of the stream is `hi(FB[i])` and byte `2*i + 1` is
`lo(FB[i])`. -/
def Obligations.StreamBytesInOrder : Prop :=
  ∀ (fb : Fb) (n i : Nat), i < n →
    (pixelBytes (fb.pixels n))[2 * i]? = some (hi (fb.read i))
    ∧ (pixelBytes (fb.pixels n))[2 * i + 1]? = some (lo (fb.read i))
    ∧ (pixelBytes (fb.pixels n)).length = 2 * n

/-! ### Runs without end -/

/-- 70_reset_and_hazards.md R260: under weak fairness of the tick source every operation ends: from every state that
meets the invariant, at whatever row, the run under the schedule reaches IDLE. That the sequencer steps between any two
ticks is a premise of the model's own, log entry 37: without it a Delay can miss its condition again and again
(40_init_sequencer.md R111). The schedule is log entry 9. -/
def Obligations.FairTicksEndEveryOperation : Prop :=
  ∀ (turns : Nat → Turn) (s : State), s.inv = true →
    FairTicks turns s.tickOn → PollsBetweenTicks turns →
    ∃ (k : Nat) (t : State), runUnder turns k s = .next t ∧ t.seq = .idle

/-- 70_reset_and_hazards.md R260: without fairness INIT has a run without end: under every schedule with no tick of a
running tick source, one that stops part way among them, a Delay whose condition is false holds for ever, busy, with the
same trace and the same pending requests. The schedule is log entry 9. -/
def Obligations.NoTicksHangForEver : Prop :=
  ∀ (turns : Nat → Turn) (s : State), NoTicks turns s.tickOn → s.holding = true →
    ∀ k : Nat, ∃ t : State, runUnder turns k s = .next t
      ∧ t.seq = s.seq ∧ t.busy = true ∧ t.trace = s.trace ∧ t.host = s.host ∧ t.ms = s.ms
end

