-- ==== Sys2Proof/Laws/Encoding.lean ====
section
/-! SUPPORT. The fields of a request word and of the 16-bit values on the wire: taking them apart and putting them
together again. -/

namespace Sys2Proof

@[simp] theorem reqOp_reqWord (op : BitVec 3) (x y : Coord) (c : Color) :
    reqOp (reqWord op x y c) = op := by
  simp only [reqOp, reqWord]; ext i hi; simp; grind

@[simp] theorem reqX_reqWord (op : BitVec 3) (x y : Coord) (c : Color) :
    reqX (reqWord op x y c) = x := by
  simp only [reqX, reqWord]; ext i hi; simp; grind

@[simp] theorem reqY_reqWord (op : BitVec 3) (x y : Coord) (c : Color) :
    reqY (reqWord op x y c) = y := by
  simp only [reqY, reqWord]; ext i hi; simp; grind

@[simp] theorem reqColor_reqWord (op : BitVec 3) (x y : Coord) (c : Color) :
    reqColor (reqWord op x y c) = c := by
  simp only [reqColor, reqWord]; ext i hi; simp; grind

/-- A request word is its four fields. -/
theorem reqWord_fields (w : ReqWord) : reqWord (reqOp w) (reqX w) (reqY w) (reqColor w) = w := by
  simp only [reqWord, reqOp, reqX, reqY, reqColor]; ext i h; simp; grind

@[simp] theorem ofBytes_hi_lo (v : BitVec 16) : ofBytes (hi v) (lo v) = v := by
  simp only [ofBytes, hi, lo]; ext i h; simp; grind

@[simp] theorem hi_ofBytes (a b : Byte) : hi (ofBytes a b) = a := by
  simp only [ofBytes, hi]; ext i h; simp; grind

@[simp] theorem lo_ofBytes (a b : Byte) : lo (ofBytes a b) = b := by
  simp only [ofBytes, lo]; ext i h; simp; grind

@[simp] theorem be16_ofBytes (a b : Byte) : be16 (ofBytes a b) = [a, b] := by simp [be16]

/-- The pixels of the bytes of some pixels are those pixels. -/
@[simp] theorem pixelsOf_pixelBytes (ps : List Color) : pixelsOf (pixelBytes ps) = some ps := by
  induction ps with
  | nil => rfl
  | cons p ps ih =>
    simp only [pixelBytes] at ih
    simp [pixelBytes, be16, pixelsOf, ih]

/-- The bytes of the pixels read from some bytes are those bytes. -/
theorem pixelBytes_of_pixelsOf {bs : List Byte} {ps : List Color} (h : pixelsOf bs = some ps) :
    pixelBytes ps = bs := by
  induction bs using pixelsOf.induct generalizing ps with
  | case1 => simp only [pixelsOf, Option.some.injEq] at h; subst h; rfl
  | case2 => simp [pixelsOf] at h
  | case3 a b bs ih =>
    simp only [pixelsOf, Option.map_eq_some_iff] at h
    obtain ⟨qs, hq, rfl⟩ := h
    have := ih hq
    simp only [pixelBytes] at this
    simp [pixelBytes, this]

/-- The bytes of data frames. -/
@[simp] theorem dataBytes_map_data (bs : List Byte) : dataBytes (bs.map .data) = some bs := by
  induction bs with
  | nil => rfl
  | cons b bs ih => simp [dataBytes, Frame.data, ih]

/-- Frames whose bytes can be read as data are data frames. -/
theorem map_data_of_dataBytes {fs : List Frame} {bs : List Byte} (h : dataBytes fs = some bs) :
    bs.map .data = fs := by
  induction fs generalizing bs with
  | nil => simp only [dataBytes, Option.some.injEq] at h; subst h; rfl
  | cons f fs ih =>
    obtain ⟨d, b⟩ := f
    cases d <;> simp only [dataBytes, Option.map_eq_some_iff, reduceCtorEq] at h
    obtain ⟨cs, hc, rfl⟩ := h
    simp [Frame.data, ih hc]

/-- Two bytes for every pixel (43_pixel_frame.md R177). -/
theorem length_pixelBytes (ps : List Color) : (pixelBytes ps).length = 2 * ps.length := by
  induction ps with
  | nil => rfl
  | cons p ps ih =>
    simp only [pixelBytes] at ih
    simp [pixelBytes, be16, ih]; omega

/-- Decoding a message is decoding its command byte with its parameter bytes. -/
@[simp] theorem decodeMessage_messageFrames (cfg : Config) (b : Byte) (ps : List Byte) :
    decodeMessage cfg (messageFrames b ps) = decodeCommand cfg b ps := by
  simp [decodeMessage, messageFrames, Frame.cmd]

end Sys2Proof
end

