-- ==== Sys2Proof/Laws/Memory.lean ====
section
/-! SUPPORT. The framebuffer: what reading, writing, listing and unlisting an entry do, and that every operation keeps
the canonical form. -/

namespace Sys2Proof.Machine

/-- Listing a value changes what is listed for that index and for no other. -/
theorem cellAt_insertCell (k i : Nat) (v : Color) (cs : List (Nat × Color)) :
    cellAt k (insertCell i v cs) = if i = k then some v else cellAt k cs := by
  induction cs with
  | nil => simp [insertCell, cellAt]
  | cons a cs ih =>
    obtain ⟨j, w⟩ := a
    simp only [insertCell]
    split
    · subst j; simp only [cellAt]; split <;> simp_all
    · split
      · simp only [cellAt, ih]; split <;> split <;> simp_all
      · simp only [cellAt]

/-- Unlisting an index leaves every other index alone. -/
theorem cellAt_eraseCell_ne {k i : Nat} (h : k ≠ i) (cs : List (Nat × Color)) :
    cellAt k (eraseCell i cs) = cellAt k cs := by
  induction cs with
  | nil => rfl
  | cons a cs ih =>
    obtain ⟨j, w⟩ := a
    simp only [eraseCell]
    split
    · subst j; simp [cellAt, Ne.symm h]
    · split
      · simp [cellAt, ih]
      · rfl

/-- An index below every listed one is not listed. -/
theorem cellAt_eq_none_of_rising {k lo : Nat} {cs : List (Nat × Color)}
    (h : risingFrom lo cs = true) (hk : k < lo) : cellAt k cs = none := by
  induction cs generalizing lo with
  | nil => rfl
  | cons a cs ih =>
    obtain ⟨j, w⟩ := a
    simp only [risingFrom, Bool.and_eq_true, decide_eq_true_eq] at h
    have hj : j ≠ k := by omega
    simp only [cellAt, hj, if_false]
    exact ih h.2 (by omega)

/-- In a rising list an unlisted index is listed no more. -/
theorem cellAt_eraseCell_self {i lo : Nat} {cs : List (Nat × Color)}
    (h : risingFrom lo cs = true) : cellAt i (eraseCell i cs) = none := by
  induction cs generalizing lo with
  | nil => rfl
  | cons a cs ih =>
    obtain ⟨j, w⟩ := a
    simp only [risingFrom, Bool.and_eq_true, decide_eq_true_eq] at h
    simp only [eraseCell]
    split
    · exact cellAt_eq_none_of_rising h.2 (by omega)
    · split
      · have : j ≠ i := by assumption
        simp only [cellAt, this, if_false]
        exact ih h.2
      · have : j ≠ i := by assumption
        simp only [cellAt, this, if_false]
        exact cellAt_eq_none_of_rising h.2 (by omega)

theorem risingFrom_mono {lo lo' : Nat} {cs : List (Nat × Color)} (h : risingFrom lo cs = true)
    (hl : lo' ≤ lo) : risingFrom lo' cs = true := by
  cases cs with
  | nil => rfl
  | cons a cs =>
    simp only [risingFrom, Bool.and_eq_true, decide_eq_true_eq] at h ⊢
    exact ⟨by omega, h.2⟩

theorem risingFrom_insertCell {lo i : Nat} {v : Color} {cs : List (Nat × Color)}
    (h : risingFrom lo cs = true) (hi : lo ≤ i) : risingFrom lo (insertCell i v cs) = true := by
  induction cs generalizing lo with
  | nil => simp [insertCell, risingFrom, hi]
  | cons a cs ih =>
    obtain ⟨j, w⟩ := a
    have h' := h
    simp only [risingFrom, Bool.and_eq_true, decide_eq_true_eq] at h
    simp only [insertCell]
    split
    · subst j; simp [risingFrom, hi, h.2]
    · split
      · simp only [risingFrom, Bool.and_eq_true, decide_eq_true_eq]
        exact ⟨h.1, ih h.2 (by omega)⟩
      · simp only [risingFrom, Bool.and_eq_true, decide_eq_true_eq]
        exact ⟨hi, by omega, h.2⟩

theorem risingFrom_eraseCell {lo i : Nat} {cs : List (Nat × Color)}
    (h : risingFrom lo cs = true) : risingFrom lo (eraseCell i cs) = true := by
  induction cs generalizing lo with
  | nil => rfl
  | cons a cs ih =>
    obtain ⟨j, w⟩ := a
    have h' := h
    simp only [risingFrom, Bool.and_eq_true, decide_eq_true_eq] at h
    simp only [eraseCell]
    split
    · exact risingFrom_mono h.2 (by omega)
    · split
      · simp only [risingFrom, Bool.and_eq_true, decide_eq_true_eq]
        exact ⟨h.1, ih h.2⟩
      · exact h'

/-- What holds of every listed entry and of the new one holds after listing. -/
theorem all_insertCell {p : Nat × Color → Bool} {i : Nat} {v : Color} {cs : List (Nat × Color)}
    (h : cs.all p = true) (hv : p (i, v) = true) : (insertCell i v cs).all p = true := by
  induction cs with
  | nil => simp [insertCell, hv]
  | cons a cs ih =>
    obtain ⟨j, w⟩ := a
    simp only [List.all_cons, Bool.and_eq_true] at h
    simp only [insertCell]
    split
    · simp only [List.all_cons, hv, h.2, Bool.and_self]
    · split
      · simp only [List.all_cons, h.1, ih h.2, Bool.and_self]
      · simp only [List.all_cons, hv, h.1, h.2, Bool.and_self]

theorem all_eraseCell {p : Nat × Color → Bool} {i : Nat} {cs : List (Nat × Color)}
    (h : cs.all p = true) : (eraseCell i cs).all p = true := by
  induction cs with
  | nil => rfl
  | cons a cs ih =>
    obtain ⟨j, w⟩ := a
    simp only [List.all_cons, Bool.and_eq_true] at h
    simp only [eraseCell]
    split
    · exact h.2
    · split
      · simp only [List.all_cons, h.1, ih h.2, Bool.and_self]
      · simp only [List.all_cons, h.1, h.2, Bool.and_self]

/-- Reading an entry of known background value. -/
theorem Background.read_of_value {b : Background} {v : Color} (h : b.value = some v) (i : Nat) :
    b.read i = v := by
  cases b <;> simp_all [Background.value, Background.read]

/-- A write keeps the background. -/
@[simp] theorem Fb.write_background (fb : Fb) (i : Nat) (v : Color) :
    (fb.write i v).background = fb.background := by
  unfold Fb.write; split <;> rfl

/-- Every write keeps the canonical form. -/
theorem Fb.write_wf {fb : Fb} {i : Nat} {v : Color} (h : fb.wf = true) : (fb.write i v).wf = true := by
  unfold Fb.wf at h ⊢
  rw [Bool.and_eq_true] at h
  rw [Fb.write_background, Bool.and_eq_true]
  unfold Fb.write
  split
  · exact ⟨risingFrom_eraseCell h.1, all_eraseCell h.2⟩
  · exact ⟨risingFrom_insertCell h.1 (Nat.zero_le _), all_insertCell h.2 (by simpa)⟩

/-- Every write within the size keeps the listed entries within the size. -/
theorem Fb.write_below {fb : Fb} {i n : Nat} {v : Color} (h : fb.below n = true) (hi : i < n) :
    (fb.write i v).below n = true := by
  unfold Fb.below at h ⊢
  unfold Fb.write
  split
  · exact all_eraseCell h
  · exact all_insertCell h (by simpa)

/-- The zero-filled framebuffer is canonical. -/
theorem Fb.zeroFilled_wf : Fb.zeroFilled.wf = true := rfl

/-- The framebuffer at power-up is canonical. -/
theorem State.powerUp_fb_wf (cfg : Config) (draw : Nat) : (State.powerUp cfg draw).fb.wf = true := rfl

end Sys2Proof.Machine
end

