-- ==== Sys2Proof/Laws/State.lean ====
section
/-! SUPPORT. One lemma per field per field update of Machine/Ops.lean, so that no proof unfolds a record update. -/

namespace Sys2Proof.Machine

variable (s : State)

@[simp] theorem State.setSeq_cfg (q : Seq) : (s.setSeq q).cfg = s.cfg := rfl
@[simp] theorem State.setSeq_x (q : Seq) : (s.setSeq q).x = s.x := rfl
@[simp] theorem State.setSeq_y (q : Seq) : (s.setSeq q).y = s.y := rfl
@[simp] theorem State.setSeq_c (q : Seq) : (s.setSeq q).c = s.c := rfl
@[simp] theorem State.setSeq_seq (q : Seq) : (s.setSeq q).seq = q := rfl
@[simp] theorem State.setSeq_t0 (q : Seq) : (s.setSeq q).t0 = s.t0 := rfl
@[simp] theorem State.setSeq_delayOn (q : Seq) : (s.setSeq q).delayOn = s.delayOn := rfl
@[simp] theorem State.setSeq_res (q : Seq) : (s.setSeq q).res = s.res := rfl
@[simp] theorem State.setSeq_dc (q : Seq) : (s.setSeq q).dc = s.dc := rfl
@[simp] theorem State.setSeq_fb (q : Seq) : (s.setSeq q).fb = s.fb := rfl
@[simp] theorem State.setSeq_rsp (q : Seq) : (s.setSeq q).rsp = s.rsp := rfl
@[simp] theorem State.setSeq_trace (q : Seq) : (s.setSeq q).trace = s.trace := rfl
@[simp] theorem State.setSeq_ms (q : Seq) : (s.setSeq q).ms = s.ms := rfl
@[simp] theorem State.setSeq_fbRdata (q : Seq) : (s.setSeq q).fbRdata = s.fbRdata := rfl
@[simp] theorem State.setSeq_host (q : Seq) : (s.setSeq q).host = s.host := rfl
@[simp] theorem State.setSeq_turns (q : Seq) : (s.setSeq q).turns = s.turns := rfl
@[simp] theorem State.setSeq_tickOn (q : Seq) : (s.setSeq q).tickOn = s.tickOn := rfl

@[simp] theorem State.loadLatches_cfg (a b : Coord) (d : Color) : (s.loadLatches a b d).cfg = s.cfg := rfl
@[simp] theorem State.loadLatches_x (a b : Coord) (d : Color) : (s.loadLatches a b d).x = a := rfl
@[simp] theorem State.loadLatches_y (a b : Coord) (d : Color) : (s.loadLatches a b d).y = b := rfl
@[simp] theorem State.loadLatches_c (a b : Coord) (d : Color) : (s.loadLatches a b d).c = d := rfl
@[simp] theorem State.loadLatches_seq (a b : Coord) (d : Color) : (s.loadLatches a b d).seq = s.seq := rfl
@[simp] theorem State.loadLatches_t0 (a b : Coord) (d : Color) : (s.loadLatches a b d).t0 = s.t0 := rfl
@[simp] theorem State.loadLatches_delayOn (a b : Coord) (d : Color) : (s.loadLatches a b d).delayOn = s.delayOn := rfl
@[simp] theorem State.loadLatches_res (a b : Coord) (d : Color) : (s.loadLatches a b d).res = s.res := rfl
@[simp] theorem State.loadLatches_dc (a b : Coord) (d : Color) : (s.loadLatches a b d).dc = s.dc := rfl
@[simp] theorem State.loadLatches_fb (a b : Coord) (d : Color) : (s.loadLatches a b d).fb = s.fb := rfl
@[simp] theorem State.loadLatches_rsp (a b : Coord) (d : Color) : (s.loadLatches a b d).rsp = s.rsp := rfl
@[simp] theorem State.loadLatches_trace (a b : Coord) (d : Color) : (s.loadLatches a b d).trace = s.trace := rfl
@[simp] theorem State.loadLatches_ms (a b : Coord) (d : Color) : (s.loadLatches a b d).ms = s.ms := rfl
@[simp] theorem State.loadLatches_fbRdata (a b : Coord) (d : Color) : (s.loadLatches a b d).fbRdata = s.fbRdata := rfl
@[simp] theorem State.loadLatches_host (a b : Coord) (d : Color) : (s.loadLatches a b d).host = s.host := rfl
@[simp] theorem State.loadLatches_turns (a b : Coord) (d : Color) : (s.loadLatches a b d).turns = s.turns := rfl
@[simp] theorem State.loadLatches_tickOn (a b : Coord) (d : Color) : (s.loadLatches a b d).tickOn = s.tickOn := rfl

@[simp] theorem State.setT0_cfg (t : Nat) : (s.setT0 t).cfg = s.cfg := rfl
@[simp] theorem State.setT0_x (t : Nat) : (s.setT0 t).x = s.x := rfl
@[simp] theorem State.setT0_y (t : Nat) : (s.setT0 t).y = s.y := rfl
@[simp] theorem State.setT0_c (t : Nat) : (s.setT0 t).c = s.c := rfl
@[simp] theorem State.setT0_seq (t : Nat) : (s.setT0 t).seq = s.seq := rfl
@[simp] theorem State.setT0_t0 (t : Nat) : (s.setT0 t).t0 = t := rfl
@[simp] theorem State.setT0_delayOn (t : Nat) : (s.setT0 t).delayOn = s.delayOn := rfl
@[simp] theorem State.setT0_res (t : Nat) : (s.setT0 t).res = s.res := rfl
@[simp] theorem State.setT0_dc (t : Nat) : (s.setT0 t).dc = s.dc := rfl
@[simp] theorem State.setT0_fb (t : Nat) : (s.setT0 t).fb = s.fb := rfl
@[simp] theorem State.setT0_rsp (t : Nat) : (s.setT0 t).rsp = s.rsp := rfl
@[simp] theorem State.setT0_trace (t : Nat) : (s.setT0 t).trace = s.trace := rfl
@[simp] theorem State.setT0_ms (t : Nat) : (s.setT0 t).ms = s.ms := rfl
@[simp] theorem State.setT0_fbRdata (t : Nat) : (s.setT0 t).fbRdata = s.fbRdata := rfl
@[simp] theorem State.setT0_host (t : Nat) : (s.setT0 t).host = s.host := rfl
@[simp] theorem State.setT0_turns (t : Nat) : (s.setT0 t).turns = s.turns := rfl
@[simp] theorem State.setT0_tickOn (t : Nat) : (s.setT0 t).tickOn = s.tickOn := rfl

@[simp] theorem State.setDelayOn_cfg (b : Bool) : (s.setDelayOn b).cfg = s.cfg := rfl
@[simp] theorem State.setDelayOn_x (b : Bool) : (s.setDelayOn b).x = s.x := rfl
@[simp] theorem State.setDelayOn_y (b : Bool) : (s.setDelayOn b).y = s.y := rfl
@[simp] theorem State.setDelayOn_c (b : Bool) : (s.setDelayOn b).c = s.c := rfl
@[simp] theorem State.setDelayOn_seq (b : Bool) : (s.setDelayOn b).seq = s.seq := rfl
@[simp] theorem State.setDelayOn_t0 (b : Bool) : (s.setDelayOn b).t0 = s.t0 := rfl
@[simp] theorem State.setDelayOn_delayOn (b : Bool) : (s.setDelayOn b).delayOn = b := rfl
@[simp] theorem State.setDelayOn_res (b : Bool) : (s.setDelayOn b).res = s.res := rfl
@[simp] theorem State.setDelayOn_dc (b : Bool) : (s.setDelayOn b).dc = s.dc := rfl
@[simp] theorem State.setDelayOn_fb (b : Bool) : (s.setDelayOn b).fb = s.fb := rfl
@[simp] theorem State.setDelayOn_rsp (b : Bool) : (s.setDelayOn b).rsp = s.rsp := rfl
@[simp] theorem State.setDelayOn_trace (b : Bool) : (s.setDelayOn b).trace = s.trace := rfl
@[simp] theorem State.setDelayOn_ms (b : Bool) : (s.setDelayOn b).ms = s.ms := rfl
@[simp] theorem State.setDelayOn_fbRdata (b : Bool) : (s.setDelayOn b).fbRdata = s.fbRdata := rfl
@[simp] theorem State.setDelayOn_host (b : Bool) : (s.setDelayOn b).host = s.host := rfl
@[simp] theorem State.setDelayOn_turns (b : Bool) : (s.setDelayOn b).turns = s.turns := rfl
@[simp] theorem State.setDelayOn_tickOn (b : Bool) : (s.setDelayOn b).tickOn = s.tickOn := rfl

@[simp] theorem State.setRes_cfg (l : Line) : (s.setRes l).cfg = s.cfg := rfl
@[simp] theorem State.setRes_x (l : Line) : (s.setRes l).x = s.x := rfl
@[simp] theorem State.setRes_y (l : Line) : (s.setRes l).y = s.y := rfl
@[simp] theorem State.setRes_c (l : Line) : (s.setRes l).c = s.c := rfl
@[simp] theorem State.setRes_seq (l : Line) : (s.setRes l).seq = s.seq := rfl
@[simp] theorem State.setRes_t0 (l : Line) : (s.setRes l).t0 = s.t0 := rfl
@[simp] theorem State.setRes_delayOn (l : Line) : (s.setRes l).delayOn = s.delayOn := rfl
@[simp] theorem State.setRes_res (l : Line) : (s.setRes l).res = l := rfl
@[simp] theorem State.setRes_dc (l : Line) : (s.setRes l).dc = s.dc := rfl
@[simp] theorem State.setRes_fb (l : Line) : (s.setRes l).fb = s.fb := rfl
@[simp] theorem State.setRes_rsp (l : Line) : (s.setRes l).rsp = s.rsp := rfl
@[simp] theorem State.setRes_trace (l : Line) : (s.setRes l).trace = s.trace := rfl
@[simp] theorem State.setRes_ms (l : Line) : (s.setRes l).ms = s.ms := rfl
@[simp] theorem State.setRes_fbRdata (l : Line) : (s.setRes l).fbRdata = s.fbRdata := rfl
@[simp] theorem State.setRes_host (l : Line) : (s.setRes l).host = s.host := rfl
@[simp] theorem State.setRes_turns (l : Line) : (s.setRes l).turns = s.turns := rfl
@[simp] theorem State.setRes_tickOn (l : Line) : (s.setRes l).tickOn = s.tickOn := rfl

@[simp] theorem State.setDc_cfg (l : Line) : (s.setDc l).cfg = s.cfg := rfl
@[simp] theorem State.setDc_x (l : Line) : (s.setDc l).x = s.x := rfl
@[simp] theorem State.setDc_y (l : Line) : (s.setDc l).y = s.y := rfl
@[simp] theorem State.setDc_c (l : Line) : (s.setDc l).c = s.c := rfl
@[simp] theorem State.setDc_seq (l : Line) : (s.setDc l).seq = s.seq := rfl
@[simp] theorem State.setDc_t0 (l : Line) : (s.setDc l).t0 = s.t0 := rfl
@[simp] theorem State.setDc_delayOn (l : Line) : (s.setDc l).delayOn = s.delayOn := rfl
@[simp] theorem State.setDc_res (l : Line) : (s.setDc l).res = s.res := rfl
@[simp] theorem State.setDc_dc (l : Line) : (s.setDc l).dc = l := rfl
@[simp] theorem State.setDc_fb (l : Line) : (s.setDc l).fb = s.fb := rfl
@[simp] theorem State.setDc_rsp (l : Line) : (s.setDc l).rsp = s.rsp := rfl
@[simp] theorem State.setDc_trace (l : Line) : (s.setDc l).trace = s.trace := rfl
@[simp] theorem State.setDc_ms (l : Line) : (s.setDc l).ms = s.ms := rfl
@[simp] theorem State.setDc_fbRdata (l : Line) : (s.setDc l).fbRdata = s.fbRdata := rfl
@[simp] theorem State.setDc_host (l : Line) : (s.setDc l).host = s.host := rfl
@[simp] theorem State.setDc_turns (l : Line) : (s.setDc l).turns = s.turns := rfl
@[simp] theorem State.setDc_tickOn (l : Line) : (s.setDc l).tickOn = s.tickOn := rfl

@[simp] theorem State.setFb_cfg (f : Fb) : (s.setFb f).cfg = s.cfg := rfl
@[simp] theorem State.setFb_x (f : Fb) : (s.setFb f).x = s.x := rfl
@[simp] theorem State.setFb_y (f : Fb) : (s.setFb f).y = s.y := rfl
@[simp] theorem State.setFb_c (f : Fb) : (s.setFb f).c = s.c := rfl
@[simp] theorem State.setFb_seq (f : Fb) : (s.setFb f).seq = s.seq := rfl
@[simp] theorem State.setFb_t0 (f : Fb) : (s.setFb f).t0 = s.t0 := rfl
@[simp] theorem State.setFb_delayOn (f : Fb) : (s.setFb f).delayOn = s.delayOn := rfl
@[simp] theorem State.setFb_res (f : Fb) : (s.setFb f).res = s.res := rfl
@[simp] theorem State.setFb_dc (f : Fb) : (s.setFb f).dc = s.dc := rfl
@[simp] theorem State.setFb_fb (f : Fb) : (s.setFb f).fb = f := rfl
@[simp] theorem State.setFb_rsp (f : Fb) : (s.setFb f).rsp = s.rsp := rfl
@[simp] theorem State.setFb_trace (f : Fb) : (s.setFb f).trace = s.trace := rfl
@[simp] theorem State.setFb_ms (f : Fb) : (s.setFb f).ms = s.ms := rfl
@[simp] theorem State.setFb_fbRdata (f : Fb) : (s.setFb f).fbRdata = s.fbRdata := rfl
@[simp] theorem State.setFb_host (f : Fb) : (s.setFb f).host = s.host := rfl
@[simp] theorem State.setFb_turns (f : Fb) : (s.setFb f).turns = s.turns := rfl
@[simp] theorem State.setFb_tickOn (f : Fb) : (s.setFb f).tickOn = s.tickOn := rfl

@[simp] theorem State.setRsp_cfg (v : BitVec 16) : (s.setRsp v).cfg = s.cfg := rfl
@[simp] theorem State.setRsp_x (v : BitVec 16) : (s.setRsp v).x = s.x := rfl
@[simp] theorem State.setRsp_y (v : BitVec 16) : (s.setRsp v).y = s.y := rfl
@[simp] theorem State.setRsp_c (v : BitVec 16) : (s.setRsp v).c = s.c := rfl
@[simp] theorem State.setRsp_seq (v : BitVec 16) : (s.setRsp v).seq = s.seq := rfl
@[simp] theorem State.setRsp_t0 (v : BitVec 16) : (s.setRsp v).t0 = s.t0 := rfl
@[simp] theorem State.setRsp_delayOn (v : BitVec 16) : (s.setRsp v).delayOn = s.delayOn := rfl
@[simp] theorem State.setRsp_res (v : BitVec 16) : (s.setRsp v).res = s.res := rfl
@[simp] theorem State.setRsp_dc (v : BitVec 16) : (s.setRsp v).dc = s.dc := rfl
@[simp] theorem State.setRsp_fb (v : BitVec 16) : (s.setRsp v).fb = s.fb := rfl
@[simp] theorem State.setRsp_rsp (v : BitVec 16) : (s.setRsp v).rsp = v := rfl
@[simp] theorem State.setRsp_trace (v : BitVec 16) : (s.setRsp v).trace = s.trace := rfl
@[simp] theorem State.setRsp_ms (v : BitVec 16) : (s.setRsp v).ms = s.ms := rfl
@[simp] theorem State.setRsp_fbRdata (v : BitVec 16) : (s.setRsp v).fbRdata = s.fbRdata := rfl
@[simp] theorem State.setRsp_host (v : BitVec 16) : (s.setRsp v).host = s.host := rfl
@[simp] theorem State.setRsp_turns (v : BitVec 16) : (s.setRsp v).turns = s.turns := rfl
@[simp] theorem State.setRsp_tickOn (v : BitVec 16) : (s.setRsp v).tickOn = s.tickOn := rfl

@[simp] theorem State.emit_cfg (e : Event) : (s.emit e).cfg = s.cfg := rfl
@[simp] theorem State.emit_x (e : Event) : (s.emit e).x = s.x := rfl
@[simp] theorem State.emit_y (e : Event) : (s.emit e).y = s.y := rfl
@[simp] theorem State.emit_c (e : Event) : (s.emit e).c = s.c := rfl
@[simp] theorem State.emit_seq (e : Event) : (s.emit e).seq = s.seq := rfl
@[simp] theorem State.emit_t0 (e : Event) : (s.emit e).t0 = s.t0 := rfl
@[simp] theorem State.emit_delayOn (e : Event) : (s.emit e).delayOn = s.delayOn := rfl
@[simp] theorem State.emit_res (e : Event) : (s.emit e).res = s.res := rfl
@[simp] theorem State.emit_dc (e : Event) : (s.emit e).dc = s.dc := rfl
@[simp] theorem State.emit_fb (e : Event) : (s.emit e).fb = s.fb := rfl
@[simp] theorem State.emit_rsp (e : Event) : (s.emit e).rsp = s.rsp := rfl
@[simp] theorem State.emit_trace (e : Event) : (s.emit e).trace = s.trace ++ [e] := rfl
@[simp] theorem State.emit_ms (e : Event) : (s.emit e).ms = s.ms := rfl
@[simp] theorem State.emit_fbRdata (e : Event) : (s.emit e).fbRdata = s.fbRdata := rfl
@[simp] theorem State.emit_host (e : Event) : (s.emit e).host = s.host := rfl
@[simp] theorem State.emit_turns (e : Event) : (s.emit e).turns = s.turns := rfl
@[simp] theorem State.emit_tickOn (e : Event) : (s.emit e).tickOn = s.tickOn := rfl

@[simp] theorem State.setMs_cfg (n : Nat) : (s.setMs n).cfg = s.cfg := rfl
@[simp] theorem State.setMs_x (n : Nat) : (s.setMs n).x = s.x := rfl
@[simp] theorem State.setMs_y (n : Nat) : (s.setMs n).y = s.y := rfl
@[simp] theorem State.setMs_c (n : Nat) : (s.setMs n).c = s.c := rfl
@[simp] theorem State.setMs_seq (n : Nat) : (s.setMs n).seq = s.seq := rfl
@[simp] theorem State.setMs_t0 (n : Nat) : (s.setMs n).t0 = s.t0 := rfl
@[simp] theorem State.setMs_delayOn (n : Nat) : (s.setMs n).delayOn = s.delayOn := rfl
@[simp] theorem State.setMs_res (n : Nat) : (s.setMs n).res = s.res := rfl
@[simp] theorem State.setMs_dc (n : Nat) : (s.setMs n).dc = s.dc := rfl
@[simp] theorem State.setMs_fb (n : Nat) : (s.setMs n).fb = s.fb := rfl
@[simp] theorem State.setMs_rsp (n : Nat) : (s.setMs n).rsp = s.rsp := rfl
@[simp] theorem State.setMs_trace (n : Nat) : (s.setMs n).trace = s.trace := rfl
@[simp] theorem State.setMs_ms (n : Nat) : (s.setMs n).ms = n := rfl
@[simp] theorem State.setMs_fbRdata (n : Nat) : (s.setMs n).fbRdata = s.fbRdata := rfl
@[simp] theorem State.setMs_host (n : Nat) : (s.setMs n).host = s.host := rfl
@[simp] theorem State.setMs_turns (n : Nat) : (s.setMs n).turns = s.turns := rfl
@[simp] theorem State.setMs_tickOn (n : Nat) : (s.setMs n).tickOn = s.tickOn := rfl

@[simp] theorem State.setFbRdata_cfg (v : BitVec 16) : (s.setFbRdata v).cfg = s.cfg := rfl
@[simp] theorem State.setFbRdata_x (v : BitVec 16) : (s.setFbRdata v).x = s.x := rfl
@[simp] theorem State.setFbRdata_y (v : BitVec 16) : (s.setFbRdata v).y = s.y := rfl
@[simp] theorem State.setFbRdata_c (v : BitVec 16) : (s.setFbRdata v).c = s.c := rfl
@[simp] theorem State.setFbRdata_seq (v : BitVec 16) : (s.setFbRdata v).seq = s.seq := rfl
@[simp] theorem State.setFbRdata_t0 (v : BitVec 16) : (s.setFbRdata v).t0 = s.t0 := rfl
@[simp] theorem State.setFbRdata_delayOn (v : BitVec 16) : (s.setFbRdata v).delayOn = s.delayOn := rfl
@[simp] theorem State.setFbRdata_res (v : BitVec 16) : (s.setFbRdata v).res = s.res := rfl
@[simp] theorem State.setFbRdata_dc (v : BitVec 16) : (s.setFbRdata v).dc = s.dc := rfl
@[simp] theorem State.setFbRdata_fb (v : BitVec 16) : (s.setFbRdata v).fb = s.fb := rfl
@[simp] theorem State.setFbRdata_rsp (v : BitVec 16) : (s.setFbRdata v).rsp = s.rsp := rfl
@[simp] theorem State.setFbRdata_trace (v : BitVec 16) : (s.setFbRdata v).trace = s.trace := rfl
@[simp] theorem State.setFbRdata_ms (v : BitVec 16) : (s.setFbRdata v).ms = s.ms := rfl
@[simp] theorem State.setFbRdata_fbRdata (v : BitVec 16) : (s.setFbRdata v).fbRdata = v := rfl
@[simp] theorem State.setFbRdata_host (v : BitVec 16) : (s.setFbRdata v).host = s.host := rfl
@[simp] theorem State.setFbRdata_turns (v : BitVec 16) : (s.setFbRdata v).turns = s.turns := rfl
@[simp] theorem State.setFbRdata_tickOn (v : BitVec 16) : (s.setFbRdata v).tickOn = s.tickOn := rfl

@[simp] theorem State.setHost_cfg (h : List HostAct) : (s.setHost h).cfg = s.cfg := rfl
@[simp] theorem State.setHost_x (h : List HostAct) : (s.setHost h).x = s.x := rfl
@[simp] theorem State.setHost_y (h : List HostAct) : (s.setHost h).y = s.y := rfl
@[simp] theorem State.setHost_c (h : List HostAct) : (s.setHost h).c = s.c := rfl
@[simp] theorem State.setHost_seq (h : List HostAct) : (s.setHost h).seq = s.seq := rfl
@[simp] theorem State.setHost_t0 (h : List HostAct) : (s.setHost h).t0 = s.t0 := rfl
@[simp] theorem State.setHost_delayOn (h : List HostAct) : (s.setHost h).delayOn = s.delayOn := rfl
@[simp] theorem State.setHost_res (h : List HostAct) : (s.setHost h).res = s.res := rfl
@[simp] theorem State.setHost_dc (h : List HostAct) : (s.setHost h).dc = s.dc := rfl
@[simp] theorem State.setHost_fb (h : List HostAct) : (s.setHost h).fb = s.fb := rfl
@[simp] theorem State.setHost_rsp (h : List HostAct) : (s.setHost h).rsp = s.rsp := rfl
@[simp] theorem State.setHost_trace (h : List HostAct) : (s.setHost h).trace = s.trace := rfl
@[simp] theorem State.setHost_ms (h : List HostAct) : (s.setHost h).ms = s.ms := rfl
@[simp] theorem State.setHost_fbRdata (h : List HostAct) : (s.setHost h).fbRdata = s.fbRdata := rfl
@[simp] theorem State.setHost_host (h : List HostAct) : (s.setHost h).host = h := rfl
@[simp] theorem State.setHost_turns (h : List HostAct) : (s.setHost h).turns = s.turns := rfl
@[simp] theorem State.setHost_tickOn (h : List HostAct) : (s.setHost h).tickOn = s.tickOn := rfl

@[simp] theorem State.setTurns_cfg (ts : List Turn) : (s.setTurns ts).cfg = s.cfg := rfl
@[simp] theorem State.setTurns_x (ts : List Turn) : (s.setTurns ts).x = s.x := rfl
@[simp] theorem State.setTurns_y (ts : List Turn) : (s.setTurns ts).y = s.y := rfl
@[simp] theorem State.setTurns_c (ts : List Turn) : (s.setTurns ts).c = s.c := rfl
@[simp] theorem State.setTurns_seq (ts : List Turn) : (s.setTurns ts).seq = s.seq := rfl
@[simp] theorem State.setTurns_t0 (ts : List Turn) : (s.setTurns ts).t0 = s.t0 := rfl
@[simp] theorem State.setTurns_delayOn (ts : List Turn) : (s.setTurns ts).delayOn = s.delayOn := rfl
@[simp] theorem State.setTurns_res (ts : List Turn) : (s.setTurns ts).res = s.res := rfl
@[simp] theorem State.setTurns_dc (ts : List Turn) : (s.setTurns ts).dc = s.dc := rfl
@[simp] theorem State.setTurns_fb (ts : List Turn) : (s.setTurns ts).fb = s.fb := rfl
@[simp] theorem State.setTurns_rsp (ts : List Turn) : (s.setTurns ts).rsp = s.rsp := rfl
@[simp] theorem State.setTurns_trace (ts : List Turn) : (s.setTurns ts).trace = s.trace := rfl
@[simp] theorem State.setTurns_ms (ts : List Turn) : (s.setTurns ts).ms = s.ms := rfl
@[simp] theorem State.setTurns_fbRdata (ts : List Turn) : (s.setTurns ts).fbRdata = s.fbRdata := rfl
@[simp] theorem State.setTurns_host (ts : List Turn) : (s.setTurns ts).host = s.host := rfl
@[simp] theorem State.setTurns_turns (ts : List Turn) : (s.setTurns ts).turns = ts := rfl
@[simp] theorem State.setTurns_tickOn (ts : List Turn) : (s.setTurns ts).tickOn = s.tickOn := rfl

@[simp] theorem State.setTickOn_cfg (b : Bool) : (s.setTickOn b).cfg = s.cfg := rfl
@[simp] theorem State.setTickOn_x (b : Bool) : (s.setTickOn b).x = s.x := rfl
@[simp] theorem State.setTickOn_y (b : Bool) : (s.setTickOn b).y = s.y := rfl
@[simp] theorem State.setTickOn_c (b : Bool) : (s.setTickOn b).c = s.c := rfl
@[simp] theorem State.setTickOn_seq (b : Bool) : (s.setTickOn b).seq = s.seq := rfl
@[simp] theorem State.setTickOn_t0 (b : Bool) : (s.setTickOn b).t0 = s.t0 := rfl
@[simp] theorem State.setTickOn_delayOn (b : Bool) : (s.setTickOn b).delayOn = s.delayOn := rfl
@[simp] theorem State.setTickOn_res (b : Bool) : (s.setTickOn b).res = s.res := rfl
@[simp] theorem State.setTickOn_dc (b : Bool) : (s.setTickOn b).dc = s.dc := rfl
@[simp] theorem State.setTickOn_fb (b : Bool) : (s.setTickOn b).fb = s.fb := rfl
@[simp] theorem State.setTickOn_rsp (b : Bool) : (s.setTickOn b).rsp = s.rsp := rfl
@[simp] theorem State.setTickOn_trace (b : Bool) : (s.setTickOn b).trace = s.trace := rfl
@[simp] theorem State.setTickOn_ms (b : Bool) : (s.setTickOn b).ms = s.ms := rfl
@[simp] theorem State.setTickOn_fbRdata (b : Bool) : (s.setTickOn b).fbRdata = s.fbRdata := rfl
@[simp] theorem State.setTickOn_host (b : Bool) : (s.setTickOn b).host = s.host := rfl
@[simp] theorem State.setTickOn_turns (b : Bool) : (s.setTickOn b).turns = s.turns := rfl
@[simp] theorem State.setTickOn_tickOn (b : Bool) : (s.setTickOn b).tickOn = b := rfl

end Sys2Proof.Machine
end

