-- ==== Sys2Proof/Laws/Ops.lean ====
section
/-! SUPPORT. One lemma per shared operation of the machine, saying once what it can do; later proofs cite these instead
of unfolding the operations. -/

namespace Sys2Proof.Machine

/-! ### Results -/

theorem mapNext_eq_next {f : State → State} {r : Result} {t : State} :
    mapNext f r = .next t ↔ ∃ u, r = .next u ∧ t = f u := by
  cases r <;> simp [mapNext, eq_comm]

theorem mapNext_eq_refused {f : State → State} {r : Result} {e : Refusal} :
    mapNext f r = .refused e ↔ r = .refused e := by
  cases r <;> simp [mapNext]

@[simp] theorem mapNext_next (f : State → State) (s : State) : mapNext f (.next s) = .next (f s) := rfl

@[simp] theorem mapNext_refused (f : State → State) (e : Refusal) :
    mapNext f (.refused e) = .refused e := rfl

/-! ### Positions -/

theorem busy_eq_false {s : State} : s.busy = false ↔ s.seq = .idle := by
  unfold State.busy; cases s.seq <;> simp

theorem busy_eq_true {s : State} : s.busy = true ↔ ∃ op k, s.seq = .row op k := by
  unfold State.busy; cases s.seq <;> simp

/-! ### Primitives: everything a primitive does, as one state -/

theorem pinRes_eq (l : Level) (s : State) :
    pinRes l s = { s with res := l.line, trace := s.trace ++ [.res l] } := rfl

theorem writeCommand_eq (b : Byte) (s : State) :
    writeCommand b s = { s with dc := .low, trace := s.trace ++ [.dc .low, .tx b] } := by
  simp [writeCommand, driveDc, State.setDc, State.emit, Level.line]

theorem writeData8_eq (b : Byte) (s : State) :
    writeData8 b s = { s with dc := .high, trace := s.trace ++ [.dc .high, .tx b] } := by
  simp [writeData8, driveDc, State.setDc, State.emit, Level.line]

theorem writeDataBuf_eq (bs : List Byte) (s : State) :
    writeDataBuf bs s = { s with dc := .high, trace := s.trace ++ [.dc .high, .txb bs] } := by
  simp [writeDataBuf, driveDc, State.setDc, State.emit, Level.line]

/-- `SetWindow` appends eight events and leaves `DC` high; nothing else changes. -/
theorem setWindow_eq (cs ce rs re : Coord) (s : State) :
    setWindow cs ce rs re s =
      { s with
        dc := .high
        trace := s.trace ++
          [.dc .low, .tx s.cfg.cmdCaset, .dc .high, .txb (windowBytes cs ce),
           .dc .low, .tx s.cfg.cmdRaset, .dc .high, .txb (windowBytes rs re)] } := by
  simp [setWindow, writeDataBuf_eq, writeCommand_eq]

/-! ### Acceptance and message parts -/

/-- Acceptance answers a next state: the same one while busy, the accepted one at IDLE. -/
theorem accept_eq_next {x y : Coord} {c : Color} {k : State → State} {s t : State} :
    accept x y c k s = .next t ↔
      (s.busy = true ∧ t = s) ∨ (s.busy = false ∧ t = k (s.loadLatches x y c)) := by
  unfold accept; cases s.busy <;> simp [eq_comm]

theorem accept_idle {x y : Coord} {c : Color} {k : State → State} {s : State} (h : s.seq = .idle) :
    accept x y c k s = .next (k (s.loadLatches x y c)) := by
  simp [accept, busy_eq_false.2 h]

theorem accept_busy {x y : Coord} {c : Color} {k : State → State} {s : State} (h : s.busy = true) :
    accept x y c k s = .next s := by
  simp [accept, h]

/-- SETPIXEL at IDLE is accepted in range and refused out of range. -/
theorem execSetpixel_idle {x y : Coord} {c : Color} {s : State} (h : s.seq = .idle) :
    execSetpixel x y c s =
      if s.cfg.inRange x y then .next { s with x := x, y := y, c := c, seq := .row .setpixel 0 }
      else .refused .coordinatesOutOfRange := by
  simp only [execSetpixel, busy_eq_false.2 h, Bool.false_or, accept_idle h]; rfl

/-- REFRESH at IDLE is accepted on a buffered instance and refused on an unbuffered one. -/
theorem execRefresh_idle {x y : Coord} {c : Color} {s : State} (h : s.seq = .idle) :
    execRefresh x y c s =
      if s.cfg.buffered then .next { s with x := x, y := y, c := c, seq := .row .refresh 0 }
      else .refused .bufferedOnly := by
  simp only [execRefresh, busy_eq_false.2 h, Bool.false_or, accept_idle h]; rfl

/-- GETBUFFER at IDLE answers 0 on a buffered instance and is refused on an unbuffered one. -/
theorem execGetbuffer_idle {x y : Coord} {c : Color} {s : State} (h : s.seq = .idle) :
    execGetbuffer x y c s =
      if s.cfg.buffered then .next { s with x := x, y := y, c := c, rsp := 0 }
      else .refused .bufferedOnly := by
  simp only [execGetbuffer, busy_eq_false.2 h, Bool.false_or, accept_idle h]; rfl

theorem sendPart_params {cmd : Byte} {f : State → State} {s : State} (h : s.seq.inParams = true) :
    sendPart cmd f s = .next (f s) := by
  simp [sendPart, h]

theorem sendPart_command {cmd : Byte} {f : State → State} {s : State} (h : s.seq.inParams = false) :
    sendPart cmd f s = .next (writeCommand cmd s) := by
  simp [sendPart, h]

/-! ### Delay -/

theorem delayStep_entry {n : Nat} {q : Seq} {s : State} (h : s.delayOn = false) :
    delayStep n q s = { s with t0 := s.ms, delayOn := true } := by
  simp [delayStep, h, State.setT0, State.setDelayOn]

theorem delayStep_hold {n : Nat} {q : Seq} {s : State} (h : s.delayOn = true)
    (hw : s.waitOver n = false) : delayStep n q s = s := by
  simp [delayStep, h, hw]

theorem delayStep_pass {n : Nat} {q : Seq} {s : State} (h : s.delayOn = true)
    (hw : s.waitOver n = true) :
    delayStep n q s = { s with delayOn := false, seq := q, trace := s.trace ++ [.wait n] } := by
  simp [delayStep, h, hw, State.emit, State.setSeq, State.setDelayOn]

/-! ### Steps -/

theorem tickStep_eq (s : State) :
    tickStep s = { s with ms := if s.tickOn then (s.ms + 1) % s.cfg.msMod else s.ms } := by
  cases s; simp only [tickStep, State.setMs]; split <;> rfl

theorem step_of_seqTurn {s : State} (h : s.seqTurn = true) : step s = seqStep s.popTurn := by
  simp [step, turnStep, h]

/-- Everything a turn that is not the sequencer's can do, as one state. -/
theorem environmentStep_eq (a : Turn) (s : State) :
    environmentStep a s =
      { s with
        ms := if a = .tick ∧ s.tickOn = true then (s.ms + 1) % s.cfg.msMod else s.ms
        tickOn := if a = .stopTick then false else if a = .startTick then true else s.tickOn } := by
  cases a
  · simp [environmentStep, tickStep_eq]
  · rfl
  · rfl
  · rfl

theorem step_of_envTurn {s : State} (h : s.seqTurn = false) :
    step s = .next (environmentStep s.nextTurn s.popTurn) := by
  simp [step, turnStep, h]

theorem seqTurn_eq_true {s : State} : s.seqTurn = true ↔ s.nextTurn = .sequencer := by
  simp [State.seqTurn]

theorem nextTurn_of_nil {s : State} (h : s.turns = []) :
    s.nextTurn = if s.holding && s.tickOn then .tick else .sequencer := by
  simp [State.nextTurn, h]

theorem nextTurn_of_cons {s : State} {a : Turn} {ts : List Turn} (h : s.turns = a :: ts) :
    s.nextTurn = a := by
  simp [State.nextTurn, h]

theorem seqStep_idle {s : State} (h : s.seq = .idle) : seqStep s = idleStep s := by
  simp [seqStep, h]

theorem seqStep_at {s : State} {op : Op} {k : Nat} (h : s.seq = .row op k) :
    seqStep s = microStep op k s := by
  simp [seqStep, h]

/-- With no turns given and no Delay entered, the sequencer steps. -/
theorem seqTurn_of_not_holding {s : State} (ht : s.turns = []) (hd : s.holding = false) :
    s.seqTurn = true := by
  simp [seqTurn_eq_true, nextTurn_of_nil ht, hd]

theorem popTurn_of_nil {s : State} (ht : s.turns = []) : s.popTurn = s := by
  cases s; simp_all [State.popTurn, State.setTurns]

/-- What the sequencer does with one micro-step that answers a next state: a pin write, a step of a Delay, a wire
instruction followed by the advance, or the zero-fill. -/
theorem microStep_cases {op : Op} {k : Nat} {s t : State} (h : microStep op k s = .next t) :
    (∃ l, rowAt s op k = some (.pin l) ∧ t = (pinRes l s).setSeq (nextSeq op k)) ∨
    (∃ n, rowAt s op k = some (.delay n) ∧ t = delayStep n (nextSeq op k) s) ∨
    (∃ i u, rowAt s op k = some (.wire i) ∧ exec i s = .next u ∧ t = u.setSeq (nextSeq op k)) ∨
    (rowAt s op k = some .zeroFill ∧ t = (zeroFill s).setSeq (nextSeq op k)) := by
  unfold microStep at h
  split at h
  · cases h; exact .inl ⟨_, by assumption, rfl⟩
  · cases h; exact .inr (.inl ⟨_, by assumption, rfl⟩)
  · obtain ⟨u, hu, rfl⟩ := mapNext_eq_next.1 h
    exact .inr (.inr (.inl ⟨_, u, by assumption, hu, rfl⟩))
  · cases h; exact .inr (.inr (.inr ⟨by assumption, rfl⟩))
  · cases h

/-- What the sequencer does at IDLE when it answers a next state: nothing, or one host action. -/
theorem idleStep_cases {s t : State} (h : idleStep s = .next t) :
    (s.host = [] ∧ t = s) ∨
    (∃ w rest i u, s.host = .request w :: rest ∧ decodeRequest w = .ok i ∧ exec i s = .next u ∧
      t = u.setHost rest) ∨
    (∃ i v rest, s.host = .fbWrite i v :: rest ∧ s.cfg.buffered = true ∧ i < s.cfg.size ∧
      t = (s.setFb (s.fb.write i v)).setHost rest) ∨
    (∃ i rest, s.host = .fbRead i :: rest ∧ s.cfg.buffered = true ∧ i < s.cfg.size ∧
      t = (s.setFbRdata (s.fb.read i)).setHost rest) := by
  unfold idleStep at h
  split at h
  · cases h; exact .inl ⟨by assumption, rfl⟩
  · obtain ⟨u, hu, rfl⟩ := mapNext_eq_next.1 h
    unfold runRequest at hu
    split at hu
    · exact .inr (.inl ⟨_, _, _, u, by assumption, by assumption, hu, rfl⟩)
    · cases hu
  · obtain ⟨u, hu, rfl⟩ := mapNext_eq_next.1 h
    unfold hostWrite at hu
    split at hu
    · split at hu
      · cases hu
        exact .inr (.inr (.inl ⟨_, _, _, by assumption, by assumption, by assumption, rfl⟩))
      · cases hu
    · cases hu
  · obtain ⟨u, hu, rfl⟩ := mapNext_eq_next.1 h
    unfold hostRead at hu
    split at hu
    · split at hu
      · cases hu
        exact .inr (.inr (.inr ⟨_, _, by assumption, by assumption, by assumption, rfl⟩))
      · cases hu
    · cases hu

/-- One step that answers a next state is a step of the environment, a step at IDLE, or a micro-step. -/
theorem step_cases {s t : State} (h : step s = .next t) :
    (s.seqTurn = false ∧ t = environmentStep s.nextTurn s.popTurn) ∨
    (s.seqTurn = true ∧ s.seq = .idle ∧ idleStep s.popTurn = .next t) ∨
    (s.seqTurn = true ∧ ∃ op k, s.seq = .row op k ∧ microStep op k s.popTurn = .next t) := by
  cases hs : s.seqTurn with
  | false => rw [step_of_envTurn hs] at h; cases h; exact .inl ⟨rfl, rfl⟩
  | true =>
    rw [step_of_seqTurn hs] at h
    cases hq : s.seq with
    | idle => rw [seqStep_idle (by simpa [State.popTurn] using hq)] at h; exact .inr (.inl ⟨rfl, rfl, h⟩)
    | row op k =>
      rw [seqStep_at (by simpa [State.popTurn] using hq)] at h
      exact .inr (.inr ⟨rfl, op, k, rfl, h⟩)

/-! ### Everything a wire command and a micro-step can do, as one state -/

/-- What a wire command does: it drives `DC` low and sends one of the eight command bytes, or drives `DC` high and sends
data; nothing but `DC` and the trace changes. -/
theorem exec_wire_cases {i : Instr} {s t : State} (hr : i.isRequest = false)
    (h : exec i s = .next t) :
    (∃ b, b ∈ s.cfg.emittedBytes ∧
      t = { s with dc := .low, trace := s.trace ++ [.dc .low, .tx b] }) ∨
    (∃ b, t = { s with dc := .high, trace := s.trace ++ [.dc .high, .tx b] }) ∨
    (∃ bs, bs ≠ [] ∧ t = { s with dc := .high, trace := s.trace ++ [.dc .high, .txb bs] }) := by
  cases i <;> simp only [Instr.isRequest, reduceCtorEq] at hr <;>
    simp only [exec, execSwreset, execSlpout, execInvon, execDispon, execCaset, execRaset,
      execRamwr, execColmod, execRamwrc, sendPart, Host.Outcome.next.injEq, reduceCtorEq] at h
  case swreset => exact .inl ⟨_, by simp [Config.emittedBytes], h ▸ writeCommand_eq _ _⟩
  case slpout => exact .inl ⟨_, by simp [Config.emittedBytes], h ▸ writeCommand_eq _ _⟩
  case invon => exact .inl ⟨_, by simp [Config.emittedBytes], h ▸ writeCommand_eq _ _⟩
  case dispon => exact .inl ⟨_, by simp [Config.emittedBytes], h ▸ writeCommand_eq _ _⟩
  case caset a b =>
    split at h
    · exact .inr (.inr ⟨_, by simp [windowBytes, be16], h ▸ writeDataBuf_eq _ _⟩)
    · exact .inl ⟨_, by simp [Config.emittedBytes], h ▸ writeCommand_eq _ _⟩
  case raset a b =>
    split at h
    · exact .inr (.inr ⟨_, by simp [windowBytes, be16], h ▸ writeDataBuf_eq _ _⟩)
    · exact .inl ⟨_, by simp [Config.emittedBytes], h ▸ writeCommand_eq _ _⟩
  case ramwr p ps =>
    split at h
    · exact .inr (.inr ⟨_, by simp [pixelBytes, be16], h ▸ writeDataBuf_eq _ _⟩)
    · exact .inl ⟨_, by simp [Config.emittedBytes], h ▸ writeCommand_eq _ _⟩
  case colmod f =>
    split at h
    · exact .inr (.inl ⟨_, h ▸ writeData8_eq _ _⟩)
    · exact .inl ⟨_, by simp [Config.emittedBytes], h ▸ writeCommand_eq _ _⟩

/-- A pin row is INIT's row 0 or 2. -/
theorem rowAt_pin {s : State} {op : Op} {k : Nat} {l : Level} (h : rowAt s op k = some (.pin l)) :
    op = .init ∧ (k = 0 ∧ l = .low ∨ k = 2 ∧ l = .high) := by
  cases op <;> simp only [rowAt] at h
  · unfold initRow at h; split at h <;> simp_all
  · unfold setpixelRow at h; split at h <;> simp_all
  · unfold refreshRow at h; split at h <;> simp_all

/-- The Delay rows are the rows of `delayAt`. -/
theorem rowAt_delay {s : State} {op : Op} {k n : Nat} (h : rowAt s op k = some (.delay n)) :
    delayAt s.cfg (.row op k) = some n := by
  cases op <;> simp only [rowAt] at h
  · unfold initRow at h; split at h <;> simp_all [delayAt]
  · unfold setpixelRow at h; split at h <;> simp_all
  · unfold refreshRow at h; split at h <;> simp_all

/-- Delay rows are rows 1, 3, 5 and 7 of INIT. -/
theorem delayAt_some {cfg : Config} {op : Op} {k n : Nat} (h : delayAt cfg (.row op k) = some n) :
    op = .init ∧ (k = 1 ∨ k = 3 ∨ k = 5 ∨ k = 7) := by
  unfold delayAt at h; split at h <;> simp_all

/-- A wire row never holds a request. -/
theorem rowAt_wire {s : State} {op : Op} {k : Nat} {i : Instr}
    (h : rowAt s op k = some (.wire i)) : i.isRequest = false := by
  cases op <;> simp only [rowAt] at h
  · unfold initRow at h; split at h <;> simp_all [Instr.isRequest] <;> subst h <;> rfl
  · unfold setpixelRow at h; split at h <;> simp_all [Instr.isRequest] <;> subst h <;> rfl
  · unfold refreshRow at h; split at h <;> simp_all [Instr.isRequest] <;> subst h <;> rfl

/-- The zero-fill row is INIT's row 16. -/
theorem rowAt_zeroFill {s : State} {op : Op} {k : Nat} (h : rowAt s op k = some .zeroFill) :
    op = .init ∧ k = 16 := by
  cases op <;> simp only [rowAt] at h
  · unfold initRow at h; split at h <;> simp_all
  · unfold setpixelRow at h; split at h <;> simp_all
  · unfold refreshRow at h; split at h <;> simp_all

/-- Everything a micro-step can do, as one state. -/
theorem microStep_inv {op : Op} {k : Nat} {s t : State} (h : microStep op k s = .next t) :
    (∃ l, op = .init ∧ (k = 0 ∧ l = .low ∨ k = 2 ∧ l = .high) ∧
      t = { s with res := Level.line l, seq := nextSeq op k, trace := s.trace ++ [.res l] }) ∨
    (∃ n, delayAt s.cfg (.row op k) = some n ∧ s.delayOn = false ∧
      t = { s with t0 := s.ms, delayOn := true }) ∨
    (∃ n, delayAt s.cfg (.row op k) = some n ∧ s.delayOn = true ∧ s.waitOver n = false ∧ t = s) ∨
    (∃ n, delayAt s.cfg (.row op k) = some n ∧ s.delayOn = true ∧ s.waitOver n = true ∧
      t = { s with delayOn := false, seq := nextSeq op k, trace := s.trace ++ [.wait n] }) ∨
    (∃ b, b ∈ s.cfg.emittedBytes ∧
      t = { s with dc := .low, seq := nextSeq op k, trace := s.trace ++ [.dc .low, .tx b] }) ∨
    (∃ b, t = { s with dc := .high, seq := nextSeq op k, trace := s.trace ++ [.dc .high, .tx b] }) ∨
    (∃ bs, bs ≠ [] ∧
      t = { s with dc := .high, seq := nextSeq op k, trace := s.trace ++ [.dc .high, .txb bs] }) ∨
    (op = .init ∧ k = 16 ∧
      t = { s with fb := if s.cfg.buffered then Fb.zeroFilled else s.fb, seq := nextSeq op k }) := by
  rcases microStep_cases h with ⟨l, hr, rfl⟩ | ⟨n, hr, rfl⟩ | ⟨i, u, hr, he, rfl⟩ | ⟨hr, rfl⟩
  · exact .inl ⟨l, (rowAt_pin hr).1, (rowAt_pin hr).2, rfl⟩
  · refine .inr ?_
    cases hd : s.delayOn with
    | false => exact .inl ⟨n, rowAt_delay hr, rfl, by rw [delayStep_entry hd]⟩
    | true =>
      cases hw : s.waitOver n with
      | false => exact .inr (.inl ⟨n, rowAt_delay hr, rfl, hw, by rw [delayStep_hold hd hw]⟩)
      | true => exact .inr (.inr (.inl ⟨n, rowAt_delay hr, rfl, hw, by rw [delayStep_pass hd hw]⟩))
  · refine .inr (.inr (.inr (.inr ?_)))
    rcases exec_wire_cases (rowAt_wire hr) he with ⟨b, hb, rfl⟩ | ⟨b, rfl⟩ | ⟨bs, hb, rfl⟩
    · exact .inl ⟨b, hb, rfl⟩
    · exact .inr (.inl ⟨b, rfl⟩)
    · exact .inr (.inr (.inl ⟨bs, hb, rfl⟩))
  · refine .inr (.inr (.inr (.inr (.inr (.inr (.inr ?_))))))
    obtain ⟨rfl, rfl⟩ := rowAt_zeroFill hr
    refine ⟨rfl, rfl, ?_⟩
    unfold zeroFill
    split <;> simp_all [State.setFb, State.setSeq]

/-- What an accepted or waiting request does. -/
theorem exec_request_cases {i : Instr} {s t : State} (hr : i.isRequest = true)
    (h : exec i s = .next t) :
    (s.busy = true ∧ t = s) ∨
    (s.busy = false ∧
      ((∃ x y c, i = .init x y c ∧ t = { s with x := x, y := y, c := c, seq := .row .init 0 }) ∨
       (∃ x y c, i = .setpixel x y c ∧ s.cfg.inRange x y = true ∧
          t = { s with x := x, y := y, c := c, seq := .row .setpixel 0 }) ∨
       (∃ x y c, i = .refresh x y c ∧ s.cfg.buffered = true ∧
          t = { s with x := x, y := y, c := c, seq := .row .refresh 0 }) ∨
       (∃ x y c, i = .getwidth x y c ∧ t = { s with x := x, y := y, c := c, rsp := s.cfg.width }) ∨
       (∃ x y c, i = .getheight x y c ∧ t = { s with x := x, y := y, c := c, rsp := s.cfg.height }) ∨
       (∃ x y c, i = .getbuffer x y c ∧ s.cfg.buffered = true ∧
          t = { s with x := x, y := y, c := c, rsp := 0 }))) := by
  cases i <;> simp only [Instr.isRequest, reduceCtorEq] at hr <;> simp only [exec] at h
  case init x y c =>
    rcases accept_eq_next.1 h with h | ⟨hb, rfl⟩
    · exact .inl h
    · exact .inr ⟨hb, .inl ⟨x, y, c, rfl, rfl⟩⟩
  case setpixel x y c =>
    simp only [execSetpixel] at h
    split at h
    · rename_i hc
      rcases accept_eq_next.1 h with h | ⟨hb, rfl⟩
      · exact .inl h
      · exact .inr ⟨hb, .inr (.inl ⟨x, y, c, rfl, by simpa [hb] using hc, rfl⟩)⟩
    · cases h
  case refresh x y c =>
    simp only [execRefresh] at h
    split at h
    · rename_i hc
      rcases accept_eq_next.1 h with h | ⟨hb, rfl⟩
      · exact .inl h
      · exact .inr ⟨hb, .inr (.inr (.inl ⟨x, y, c, rfl, by simpa [hb] using hc, rfl⟩))⟩
    · cases h
  case getwidth x y c =>
    rcases accept_eq_next.1 h with h | ⟨hb, rfl⟩
    · exact .inl h
    · exact .inr ⟨hb, .inr (.inr (.inr (.inl ⟨x, y, c, rfl, rfl⟩)))⟩
  case getheight x y c =>
    rcases accept_eq_next.1 h with h | ⟨hb, rfl⟩
    · exact .inl h
    · exact .inr ⟨hb, .inr (.inr (.inr (.inr (.inl ⟨x, y, c, rfl, rfl⟩))))⟩
  case getbuffer x y c =>
    simp only [execGetbuffer] at h
    split at h
    · rename_i hc
      rcases accept_eq_next.1 h with h | ⟨hb, rfl⟩
      · exact .inl h
      · exact .inr ⟨hb, .inr (.inr (.inr (.inr (.inr ⟨x, y, c, rfl, by simpa [hb] using hc, rfl⟩))))⟩
    · cases h

/-- What a request word decodes to: its opcode field and its operand fields. -/
theorem decodeRequest_cases {w : ReqWord} {i : Instr} (h : decodeRequest w = .ok i) :
    i.isRequest = true ∧
    ((reqOp w = 1 ∧ i = .init (reqX w) (reqY w) (reqColor w)) ∨
     (reqOp w = 2 ∧ i = .setpixel (reqX w) (reqY w) (reqColor w)) ∨
     (reqOp w = 3 ∧ i = .refresh (reqX w) (reqY w) (reqColor w)) ∨
     (reqOp w = 4 ∧ i = .getwidth (reqX w) (reqY w) (reqColor w)) ∨
     (reqOp w = 5 ∧ i = .getheight (reqX w) (reqY w) (reqColor w)) ∨
     (reqOp w = 6 ∧ i = .getbuffer (reqX w) (reqY w) (reqColor w))) := by
  have key : ∀ n : Nat, (reqOp w).toNat = n → n < 8 → reqOp w = BitVec.ofNat 3 n := by
    intro n hn _; rw [← hn]; simp
  simp only [decodeRequest] at h
  split at h <;> simp only [Except.ok.injEq, reduceCtorEq] at h <;> subst h <;>
    refine ⟨rfl, ?_⟩ <;> rename_i hn <;> simp [key _ hn (by omega)]

end Sys2Proof.Machine
end

