-- ==== Sys2Proof/Laws/PerInstr.lean ====
section
/-! SUPPORT. Per-instruction families. OpcodeMatches: the encoding of an instruction carries the opcode that the
opcode table gives its row. -/

namespace Sys2Proof.Laws

/-- The `op` field of a request's row (30_encoding.md R90), none for a wire command. -/
def opField : Instr → Option (BitVec 3)
  | .init _ _ _ => some 1
  | .setpixel _ _ _ => some 2
  | .refresh _ _ _ => some 3
  | .getwidth _ _ _ => some 4
  | .getheight _ _ _ => some 5
  | .getbuffer _ _ _ => some 6
  | .swreset => none
  | .slpout => none
  | .invon => none
  | .dispon => none
  | .caset _ _ => none
  | .raset _ _ => none
  | .ramwr _ _ => none
  | .colmod _ => none
  | .ramwrc _ _ => none

/-- The command byte of a wire command's row (30_encoding.md R87), none for a request. -/
def commandByte (cfg : Config) : Instr → Option Byte
  | .init _ _ _ => none
  | .setpixel _ _ _ => none
  | .refresh _ _ _ => none
  | .getwidth _ _ _ => none
  | .getheight _ _ _ => none
  | .getbuffer _ _ _ => none
  | .swreset => some cfg.cmdSwreset
  | .slpout => some cfg.cmdSlpout
  | .invon => some cfg.cmdInvon
  | .dispon => some cfg.cmdDispon
  | .caset _ _ => some cfg.cmdCaset
  | .raset _ _ => some cfg.cmdRaset
  | .ramwr _ _ => some cfg.cmdRamwr
  | .colmod _ => some cfg.cmdColmod
  | .ramwrc _ _ => some cfg.cmdRamwrc

/-- The opcode an encoding carries agrees with the table's row. -/
def OpcodeMatches.Statement (i : Instr) : Prop :=
  ∀ cfg : Config,
    match encode cfg i with
    | .request w => opField i = some (reqOp w) ∧ commandByte cfg i = none ∧ i.isRequest = true
    | .message fs =>
      opField i = none ∧ commandByte cfg i = fs.head?.map (·.byte)
        ∧ fs.head?.map (·.dc) = some .low ∧ i.isRequest = false

theorem OpcodeMatches.init (x y : Coord) (color : Color) : Statement (.init x y color) :=
  fun _ => by simp [encode, opField, commandByte, Instr.isRequest]

theorem OpcodeMatches.setpixel (x y : Coord) (color : Color) : Statement (.setpixel x y color) :=
  fun _ => by simp [encode, opField, commandByte, Instr.isRequest]

theorem OpcodeMatches.refresh (x y : Coord) (color : Color) : Statement (.refresh x y color) :=
  fun _ => by simp [encode, opField, commandByte, Instr.isRequest]

theorem OpcodeMatches.getwidth (x y : Coord) (color : Color) : Statement (.getwidth x y color) :=
  fun _ => by simp [encode, opField, commandByte, Instr.isRequest]

theorem OpcodeMatches.getheight (x y : Coord) (color : Color) : Statement (.getheight x y color) :=
  fun _ => by simp [encode, opField, commandByte, Instr.isRequest]

theorem OpcodeMatches.getbuffer (x y : Coord) (color : Color) : Statement (.getbuffer x y color) :=
  fun _ => by simp [encode, opField, commandByte, Instr.isRequest]

theorem OpcodeMatches.swreset : Statement .swreset :=
  fun _ => ⟨rfl, rfl, rfl, rfl⟩

theorem OpcodeMatches.slpout : Statement .slpout :=
  fun _ => ⟨rfl, rfl, rfl, rfl⟩

theorem OpcodeMatches.invon : Statement .invon :=
  fun _ => ⟨rfl, rfl, rfl, rfl⟩

theorem OpcodeMatches.dispon : Statement .dispon :=
  fun _ => ⟨rfl, rfl, rfl, rfl⟩

theorem OpcodeMatches.caset (colStart colEnd : Coord) : Statement (.caset colStart colEnd) :=
  fun _ => ⟨rfl, rfl, rfl, rfl⟩

theorem OpcodeMatches.raset (rowStart rowEnd : Coord) : Statement (.raset rowStart rowEnd) :=
  fun _ => ⟨rfl, rfl, rfl, rfl⟩

theorem OpcodeMatches.ramwr (first : Color) (rest : List Color) : Statement (.ramwr first rest) :=
  fun _ => ⟨rfl, rfl, rfl, rfl⟩

theorem OpcodeMatches.colmod (fmt : Byte) : Statement (.colmod fmt) :=
  fun _ => ⟨rfl, rfl, rfl, rfl⟩

theorem OpcodeMatches.ramwrc (first : Color) (rest : List Color) : Statement (.ramwrc first rest) :=
  fun _ => ⟨rfl, rfl, rfl, rfl⟩

end Sys2Proof.Laws
end

