-- ==== Sys2Proof/Laws/Schedule.lean ====
section
/-! SUPPORT. What a turn does to the tick source, what a held poll does, and how a schedule and its premises shift by one
turn. -/

namespace Sys2Proof.Machine

/-! ### One step -/

/-- A held poll changes nothing but the used-up turn. -/
theorem step_of_holding {s : State} (h : s.holding = true) (hs : s.seqTurn = true) :
    step s = .next s.popTurn := by
  unfold State.holding at h
  split at h
  case h_2 => cases h
  case h_1 n hn =>
    simp only [Bool.and_eq_true, Bool.not_eq_true'] at h
    cases hq : s.seq with
    | idle => rw [hq] at hn; cases hn
    | row op k =>
      rw [hq] at hn
      have hr : rowAt s.popTurn op k = some (.delay n) := by
        obtain ⟨rfl, rfl | rfl | rfl | rfl⟩ := delayAt_some hn <;> cases hn <;> rfl
      have hw : s.popTurn.waitOver n = false := h.2
      rw [step_of_seqTurn hs, seqStep_at (by exact hq)]
      simp [microStep, hr, delayStep_hold (s := s.popTurn) h.1 hw]

/-- Only the turns that stop and start the tick source change whether it is running. -/
theorem tickOn_of_step {s t : State} (h : step s = .next t) :
    t.tickOn = (match s.nextTurn with
      | .stopTick => false
      | .startTick => true
      | .tick => s.tickOn
      | .sequencer => s.tickOn) := by
  rcases step_cases h with ⟨_, rfl⟩ | ⟨h1, _, h⟩ | ⟨h1, op, k, _, h⟩
  · rw [environmentStep_eq]; cases s.nextTurn <;> simp [State.popTurn]
  · rw [seqTurn_eq_true.1 h1]
    rcases idleStep_cases h with ⟨_, rfl⟩ | ⟨_, _, _, _, _, hd, hx, rfl⟩ | ⟨_, _, _, _, _, _, rfl⟩ |
      ⟨_, _, _, _, _, rfl⟩
    · rfl
    · rcases exec_request_cases (decodeRequest_cases hd).1 hx with ⟨_, rfl⟩ | ⟨_, h⟩
      · rfl
      · rcases h with ⟨_, _, _, _, rfl⟩ | ⟨_, _, _, _, _, rfl⟩ | ⟨_, _, _, _, _, rfl⟩ |
          ⟨_, _, _, _, rfl⟩ | ⟨_, _, _, _, rfl⟩ | ⟨_, _, _, _, _, rfl⟩ <;> rfl
    · rfl
    · rfl
  · rw [seqTurn_eq_true.1 h1]
    rcases microStep_inv h with ⟨_, _, _, rfl⟩ | ⟨_, _, _, rfl⟩ | ⟨_, _, _, _, rfl⟩ | ⟨_, _, _, _, rfl⟩ |
      ⟨_, _, rfl⟩ | ⟨_, rfl⟩ | ⟨_, _, rfl⟩ | ⟨_, _, rfl⟩ <;> rfl

/-! ### A schedule, one turn later -/

@[simp] theorem nextTurn_setTurns (s : State) (a : Turn) (ts : List Turn) :
    (s.setTurns (a :: ts)).nextTurn = a := rfl

theorem runUnder_succ {turns : Nat → Turn} {k : Nat} {s t : State}
    (h : step (s.setTurns [turns 0]) = .next t) :
    runUnder turns (k + 1) s = runUnder (laterTurns turns) k t := by
  simp [runUnder, h]

theorem tickRunning_laterTurns (turns : Nat → Turn) (on : Bool) (i : Nat) :
    tickRunning (laterTurns turns) (tickRunning turns on 1) i = tickRunning turns on (i + 1) := by
  induction i with
  | zero => rfl
  | succ i ih =>
    rw [tickRunning.eq_def turns on (i + 1 + 1), tickRunning.eq_def (laterTurns turns) _ (i + 1)]
    simp only [← ih, laterTurns]

/-- After the first step of a schedule the tick source runs as the schedule says. -/
theorem tickOn_of_scheduled {turns : Nat → Turn} {s t : State}
    (h : step (s.setTurns [turns 0]) = .next t) : t.tickOn = tickRunning turns s.tickOn 1 := by
  rw [tickOn_of_step h, nextTurn_setTurns]
  simp only [tickRunning]
  cases turns 0 <;> rfl

theorem FairTicks.later {turns : Nat → Turn} {on : Bool} (h : FairTicks turns on) :
    FairTicks (laterTurns turns) (tickRunning turns on 1) := by
  intro n
  obtain ⟨i, hi, ht, hr⟩ := h (n + 1)
  obtain ⟨i, rfl⟩ := Nat.exists_eq_succ_of_ne_zero (show i ≠ 0 by omega)
  exact ⟨i, by omega, ht, by rw [tickRunning_laterTurns]; exact hr⟩

theorem NoTicks.later {turns : Nat → Turn} {on : Bool} (h : NoTicks turns on) :
    NoTicks (laterTurns turns) (tickRunning turns on 1) := by
  intro i hi
  rw [tickRunning_laterTurns]
  exact h (i + 1) hi

theorem PollsBetweenTicks.later {turns : Nat → Turn} (h : PollsBetweenTicks turns) :
    PollsBetweenTicks (laterTurns turns) := by
  intro a b hab ha hb
  obtain ⟨i, h1, h2, h3⟩ := h (a + 1) (b + 1) (by omega) ha hb
  obtain ⟨i, rfl⟩ := Nat.exists_eq_succ_of_ne_zero (show i ≠ 0 by omega)
  exact ⟨i, by omega, by omega, h3⟩

end Sys2Proof.Machine
end

