-- ==== Sys2Proof/Laws/Trace.lean ====
section
/-! SUPPORT. How frames, line levels and waits of a trace follow from those of its parts. -/

namespace Sys2Proof.Machine

@[simp] theorem lastDc_append (d : Line) (a b : List Event) :
    lastDc d (a ++ b) = lastDc (lastDc d a) b := by
  induction a generalizing d with
  | nil => rfl
  | cons e es ih => cases e <;> simp [lastDc, ih]

@[simp] theorem lastRes_append (d : Line) (a b : List Event) :
    lastRes d (a ++ b) = lastRes (lastRes d a) b := by
  induction a generalizing d with
  | nil => rfl
  | cons e es ih => cases e <;> simp [lastRes, ih]

@[simp] theorem framesFrom_append (d : Line) (a b : List Event) :
    framesFrom d (a ++ b) = framesFrom d a ++ framesFrom (lastDc d a) b := by
  induction a generalizing d with
  | nil => rfl
  | cons e es ih => cases e <;> simp [framesFrom, lastDc, ih]

@[simp] theorem resEvents_append (a b : List Event) :
    resEvents (a ++ b) = resEvents a ++ resEvents b := by
  induction a with
  | nil => rfl
  | cons e es ih => cases e <;> simp [resEvents, ih]

@[simp] theorem waitSum_append (a b : List Event) : waitSum (a ++ b) = waitSum a + waitSum b := by
  induction a with
  | nil => simp [waitSum]
  | cons e es ih => cases e <;> simp [waitSum, ih, Nat.add_assoc]

/-- The position of a wait mark counts the frames before it. -/
theorem waitMarks_append (n : Nat) (d : Line) (a b : List Event) :
    waitMarks n (a ++ b) = waitMarks n a ++ waitMarks (n + (framesFrom d a).length) b := by
  induction a generalizing n d with
  | nil => simp [waitMarks, framesFrom]
  | cons e es ih =>
    cases e with
    | res l => simp only [List.cons_append, waitMarks, framesFrom]; exact ih n d
    | dc l => simp only [List.cons_append, waitMarks, framesFrom]; exact ih n l.line
    | tx b' =>
      simp only [List.cons_append, waitMarks, framesFrom, List.length_cons]
      rw [ih (n + 1) d]; congr 2; omega
    | txb bs =>
      simp only [List.cons_append, waitMarks, framesFrom, List.length_append, List.length_map]
      rw [ih (n + bs.length) d]; congr 2; omega
    | wait k => simp only [List.cons_append, waitMarks, framesFrom]; rw [ih n d]

end Sys2Proof.Machine
end

