-- ==== Sys2Proof/Machine/Text.lean ====
section
/-! DEFINITION. The textual form of requests (30_encoding.md R94) and of traces and frames (R95). No rule of the block
reads it. -/

namespace Sys2Proof.Machine

/-- One hexadecimal digit. -/
def hexDigit (n : Nat) : Char := "0123456789ABCDEF".toList.getD n '?'

/-- A byte as two hexadecimal digits without `0x` (R95). -/
def byteText (b : Byte) : String :=
  String.ofList [hexDigit (b.toNat / 16), hexDigit (b.toNat % 16)]

/-- Texts joined by blanks. -/
def spaced : List String → String
  | [] => ""
  | [t] => t
  | t :: ts => t ++ " " ++ spaced ts

def levelText : Level → String
  | .low => "low"
  | .high => "high"

/-- An event, as `RES(low)`, `DC(high)`, `TX(2A)`, `TXB(00 0A)`, `WAIT(120)` (R95). -/
def eventText : Event → String
  | .res l => "RES(" ++ levelText l ++ ")"
  | .dc l => "DC(" ++ levelText l ++ ")"
  | .tx b => "TX(" ++ byteText b ++ ")"
  | .txb bs => "TXB(" ++ spaced (bs.map byteText) ++ ")"
  | .wait n => "WAIT(" ++ toString n ++ ")"

/-- A frame, as `C:2A` or `D:00` (30_encoding.md R80). -/
def frameText (f : Frame) : String :=
  match f.dc with
  | .low => "C:" ++ byteText f.byte
  | .high => "D:" ++ byteText f.byte
  | .u => "U:" ++ byteText f.byte

/-- The short form of a trace (R95): frames and waits, with the `RES` events kept in place. -/
def shortTexts (d : Line) : List Event → List String
  | [] => []
  | .dc l :: es => shortTexts l.line es
  | .tx b :: es => frameText ⟨d, b⟩ :: shortTexts d es
  | .txb bs :: es => bs.map (fun b => frameText ⟨d, b⟩) ++ shortTexts d es
  | .res l :: es => eventText (.res l) :: shortTexts d es
  | .wait n :: es => eventText (.wait n) :: shortTexts d es

/-- A trace in its short form, the line never driven at the start. -/
def shortText (es : List Event) : String := spaced (shortTexts .u es)

/-- A request, one a line: mnemonic first, operands separated by commas (R94); none for a wire command, which the host
cannot write (R96). -/
def requestText : Instr → Option String
  | .init _ _ _ => some "INIT"
  | .setpixel x y c =>
    some ("SETPIXEL " ++ toString x.toNat ++ ", " ++ toString y.toNat ++ ", " ++ toString c.toNat)
  | .refresh _ _ _ => some "REFRESH"
  | .getwidth _ _ _ => some "GETWIDTH"
  | .getheight _ _ _ => some "GETHEIGHT"
  | .getbuffer _ _ _ => some "GETBUFFER"
  | .swreset => none
  | .slpout => none
  | .invon => none
  | .dispon => none
  | .caset _ _ => none
  | .raset _ _ => none
  | .ramwr _ _ => none
  | .colmod _ => none
  | .ramwrc _ _ => none

/-- A host access to the framebuffer, as `FB[i] <- v` or `FB[i]` (R94); none for a request. -/
def fbAccessText : HostAct → Option String
  | .fbWrite i v => some ("FB[" ++ toString i ++ "] <- " ++ toString v.toNat)
  | .fbRead i => some ("FB[" ++ toString i ++ "]")
  | .request _ => none

end Sys2Proof.Machine
end

