-- ==== Sys2Proof/Tests/Slice0.lean ====
section
/-! SUPPORT. Tests: ill-formed terms the checks refuse, words written out from the spec's encodings, single steps whose
expected results are those of 95_test_vectors.md and of the rules named, and a witness for the hypotheses of every
statement. The wire bytes are those of the default instance (log entry 2). -/

namespace Sys2Proof.Tests

open Sys2Proof.Machine Sys2Proof.Claims

/-! ### States the tests are about -/

/-- The 240 by 320 instance of EX6, unbuffered. -/
def bare : Config := { Config.default with buffered := false }

/-- A 2 by 2 buffered instance with an 8-bit counter. -/
def tiny : Config :=
  { Config.default with width := 2, height := 2, msw := 8, tRstLow := 3, tRstBoot := 0, tSwreset := 1, tSlpout := 2 }

/-- The legal instance `cfg` at power-up. -/
def idle (cfg : Config) : State := State.powerUp cfg 0

/-- The instance at a row of a table. -/
def atRow (cfg : Config) (op : Op) (k : Nat) : State := { idle cfg with seq := .row op k }

/-- The instance at IDLE with these host actions waiting. -/
def asked (cfg : Config) (acts : List HostAct) : State := { idle cfg with host := acts }

/-- The next state, if there is one. -/
def nextOf : Result → Option State
  | .next s => some s
  | .fault _ => none
  | .refused _ => none

/-- The refusal, if there is one. -/
def refusalOf : Result → Option Refusal
  | .next _ => none
  | .fault _ => none
  | .refused r => some r

/-- The events the next state has appended to an empty trace. -/
def eventsOf (r : Result) : Option (List Event) := (nextOf r).map (·.trace)

/-- `Delay(3)` of INIT's row 1 entered, its condition false at difference 2, as a run reaches it. -/
def heldDelay : State :=
  { atRow tiny .init 1 with delayOn := true, ms := 2, res := .low, trace := [.res .low] }

/-! ### Well-formedness: each check refuses an ill-formed term -/

theorem test_wf_setpixel_x : (Instr.setpixel 240 0 0).wf .default = false := by decide
theorem test_wf_setpixel_y : (Instr.setpixel 0 320 0).wf .default = false := by decide
theorem test_wf_setpixel_corner : (Instr.setpixel 239 319 0).wf .default = true := by decide
theorem test_wf_refresh : (Instr.refresh 0 0 0).wf bare = false := by decide
theorem test_wf_getbuffer : (Instr.getbuffer 0 0 0).wf bare = false := by decide
theorem test_wf_ramwr_length : (Instr.ramwr 0 [0]).wf tiny = false := by decide
theorem test_wf_ramwr_buffer : (Instr.ramwr 0 [0, 0, 0]).wf tiny = true := by decide
theorem test_wf_ramwr_unbuffered :
    (Instr.ramwr 0 [0, 0, 0]).wf { tiny with buffered := false } = false := by decide
theorem test_wf_colmod : (Instr.colmod 0x66).wf .default = false := by decide
theorem test_wf_ramwrc : (Instr.ramwrc 0 []).wf .default = false := by decide
theorem test_wf_config : tiny.wf = true := by decide
theorem test_wf_config_addrW : ({ tiny with addrW := 9 } : Config).wf = false := by decide
theorem test_wf_config_colW : ({ tiny with colW := 18 } : Config).wf = false := by decide
theorem test_wf_config_width : ({ tiny with width := 0 } : Config).wf = false := by decide
theorem test_wf_config_height : ({ tiny with height := 0 } : Config).wf = false := by decide
theorem test_wf_config_msw : ({ tiny with msw := 7 } : Config).wf = false := by decide
theorem test_wf_config_wait : ({ tiny with tSlpout := 256 } : Config).wf = false := by decide
theorem test_wf_config_bytes : ({ tiny with cmdRamwrc := 0x2C } : Config).wf = false := by decide

/-! ### Decoding: words of 30_encoding.md R89, R90 and messages of 45_wire_commands.md -/

/-- `001` and 48 operand bits, all 1: the operand fields are kept (R89). -/
theorem test_decode_init :
    decodeRequest 0b001_1111111111111111_0000000000000000_1111111111111111#51
      = .ok (.init 0xFFFF 0 0xFFFF) := by decide
/-- EX6: `SETPIXEL 10, 5, 0xF800` is `0x2000A0005F800`. -/
theorem test_decode_setpixel : decodeRequest 0x2000A0005F800 = .ok (.setpixel 10 5 0xF800) := by decide
theorem test_decode_refresh :
    decodeRequest 0b011_0000000000000001_0000000000000010_0000000000000011#51
      = .ok (.refresh 1 2 3) := by decide
theorem test_decode_getwidth : decodeRequest 0x4000000000000 = .ok (.getwidth 0 0 0) := by decide
theorem test_decode_getheight : decodeRequest 0x5000000000000 = .ok (.getheight 0 0 0) := by decide
theorem test_decode_getbuffer : decodeRequest 0x6000000000000 = .ok (.getbuffer 0 0 0) := by decide
theorem test_decode_reserved_0 : decodeRequest 0x00000FFFFFFFF = .error (.reservedOp 0) := by decide
theorem test_decode_reserved_7 : decodeRequest 0x7000000000000 = .error (.reservedOp 7) := by decide
theorem test_decode_swreset : decodeMessage .default [⟨.low, 0x01⟩] = .ok .swreset := by decide
theorem test_decode_slpout : decodeMessage .default [⟨.low, 0x11⟩] = .ok .slpout := by decide
theorem test_decode_invon : decodeMessage .default [⟨.low, 0x21⟩] = .ok .invon := by decide
theorem test_decode_dispon : decodeMessage .default [⟨.low, 0x29⟩] = .ok .dispon := by decide
/-- R204's worked example: `C:2A D:00 D:0A D:00 D:0B`. -/
theorem test_decode_caset : decodeMessage .default
    [⟨.low, 0x2A⟩, ⟨.high, 0x00⟩, ⟨.high, 0x0A⟩, ⟨.high, 0x00⟩, ⟨.high, 0x0B⟩] = .ok (.caset 10 11) := by
  decide
theorem test_decode_raset : decodeMessage .default
    [⟨.low, 0x2B⟩, ⟨.high, 0x01⟩, ⟨.high, 0x3F⟩, ⟨.high, 0x01⟩, ⟨.high, 0x40⟩] = .ok (.raset 319 320) := by
  decide
/-- R206's worked example: `C:2C D:F8 D:00`. -/
theorem test_decode_ramwr :
    decodeMessage .default [⟨.low, 0x2C⟩, ⟨.high, 0xF8⟩, ⟨.high, 0x00⟩] = .ok (.ramwr 0xF800 []) := by decide
/-- R207's worked example: `C:3A D:55`. -/
theorem test_decode_colmod : decodeMessage .default [⟨.low, 0x3A⟩, ⟨.high, 0x55⟩] = .ok (.colmod 0x55) := by
  decide
theorem test_decode_ramwrc :
    decodeMessage .default [⟨.low, 0x3C⟩, ⟨.high, 0x00⟩, ⟨.high, 0x1F⟩] = .ok (.ramwrc 0x001F []) := by decide
theorem test_decode_unknown : decodeMessage .default [⟨.low, 0x28⟩] = .error (.unknownCommand 0x28) := by decide
theorem test_decode_no_command : decodeMessage .default [⟨.high, 0x2A⟩] = .error .noCommandFrame := by decide
theorem test_decode_empty : decodeMessage .default [] = .error .noCommandFrame := by decide
theorem test_decode_short : decodeMessage .default [⟨.low, 0x2A⟩, ⟨.high, 0⟩] = .error (.badParameters 0x2A) := by
  decide
theorem test_decode_odd_pixel :
    decodeMessage .default [⟨.low, 0x2C⟩, ⟨.high, 0⟩] = .error (.badParameters 0x2C) := by decide
theorem test_decode_two_commands :
    decodeMessage .default [⟨.low, 0x01⟩, ⟨.low, 0x11⟩] = .error (.badParameters 0x01) := by decide

theorem test_table_setpixel : decodeTableWord 56 0x2000A0005F800 = some (.setpixel 10 5 0xF800) := by decide
theorem test_table_caset : decodeTableWord 8 0x2A = some (.caset 0 0) := by decide
theorem test_table_ramwrc : decodeTableWord 8 0x3C = some (.ramwrc 0 []) := by decide
theorem test_table_reserved : decodeTableWord 56 0x7000000000000 = none := by decide
theorem test_table_unknown : decodeTableWord 8 0x28 = none := by decide

/-! ### The step that runs an opcode-table word placed after reset -/

theorem test_fetch_init :
    (nextOf (step (State.reset.withFetchWord 56 0x1000000000000))).map (·.seq) = some (.row .init 0) := by decide
theorem test_fetch_getheight :
    (nextOf (step (State.reset.withFetchWord 56 0x5000000000000))).map (·.rsp) = some 0x0140 := by decide
theorem test_fetch_raset :
    eventsOf (step (State.reset.withFetchWord 8 0x2B)) = some [.dc .low, .tx 0x2B] := by decide
theorem test_fetch_ramwrc :
    refusalOf (step (State.reset.withFetchWord 8 0x3C)) = some .notInMicroProgram := by decide

/-! ### Instructions, one step each -/

/-- A second INIT is accepted like the first (R124). -/
theorem test_init_again :
    (nextOf (exec (.init 7 8 9) { idle tiny with res := .high })).map (fun s => (s.seq, s.x, s.y, s.c, s.res))
      = some (.row .init 0, 7, 8, 9, .high) := by decide
/-- V9: `SETPIXEL 240, 0, 0x0000` on 240 by 320 is refused. -/
theorem test_setpixel_width :
    refusalOf (step (asked .default [.request 0x200F000000000])) = some .coordinatesOutOfRange := by decide
/-- R170's row 3 for `SETPIXEL 10, 5, 0xF800` (EX6): `00 05 00 06`. -/
theorem test_setpixel_row :
    eventsOf (step { atRow .default .setpixel 3 with x := 10, y := 5, c := 0xF800 })
      = some [.dc .high, .txb [0x00, 0x05, 0x00, 0x06]] := by decide
/-- V-R5: REFRESH on an unbuffered instance. -/
theorem test_refresh_unbuffered : refusalOf (exec (.refresh 0 0 0) (idle bare)) = some .bufferedOnly := by decide
/-- R176's worked example: the stream of a 2 by 2 framebuffer, `F8 00 07 E0 00 1F FF FF`. -/
theorem test_refresh_stream :
    eventsOf (step { atRow tiny .refresh 5 with
        fb := ⟨.zero, [(0, 0xF800), (1, 0x07E0), (2, 0x001F), (3, 0xFFFF)]⟩ })
      = some [.dc .high, .txb [0xF8, 0x00, 0x07, 0xE0, 0x00, 0x1F, 0xFF, 0xFF]] := by decide
/-- R190's worked example. -/
theorem test_getwidth : (nextOf (exec (.getwidth 0 0 0) (idle bare))).map (·.rsp) = some 0x00F0 := by decide
/-- R191's worked example. -/
theorem test_getheight : (nextOf (exec (.getheight 0 0 0) (idle bare))).map (·.rsp) = some 0x0140 := by decide
theorem test_getbuffer :
    (nextOf (exec (.getbuffer 0 0 0) { idle tiny with rsp := 0xFFFF })).map (·.rsp) = some 0 := by decide
theorem test_getbuffer_unbuffered : refusalOf (exec (.getbuffer 0 0 0) (idle bare)) = some .bufferedOnly := by
  decide
theorem test_swreset : eventsOf (exec .swreset (idle .default)) = some [.dc .low, .tx 0x01] := by decide
theorem test_slpout : eventsOf (exec .slpout (idle .default)) = some [.dc .low, .tx 0x11] := by decide
theorem test_invon : eventsOf (exec .invon (idle .default)) = some [.dc .low, .tx 0x21] := by decide
theorem test_dispon : eventsOf (exec .dispon (idle .default)) = some [.dc .low, .tx 0x29] := by decide
/-- R163's worked example, the column bytes of `WIDTH = 240`. -/
theorem test_caset : eventsOf (step (atRow .default .init 13))
    = some [.dc .high, .txb [0x00, 0x00, 0x00, 0xEF]] := by decide
/-- R163's worked example, the row bytes of `HEIGHT = 320`. -/
theorem test_raset : eventsOf (step (atRow .default .init 15))
    = some [.dc .high, .txb [0x00, 0x00, 0x01, 0x3F]] := by decide
theorem test_ramwr_command : eventsOf (step (atRow tiny .refresh 4)) = some [.dc .low, .tx 0x2C] := by decide
theorem test_ramwr_color : eventsOf (step { atRow .default .setpixel 5 with c := 0xF800 })
    = some [.dc .high, .txb [0xF8, 0x00]] := by decide
theorem test_colmod : eventsOf (step (atRow .default .init 9)) = some [.dc .high, .tx 0x55] := by decide
theorem test_ramwrc : refusalOf (exec (.ramwrc 0 []) (atRow .default .setpixel 5)) = some .notInMicroProgram := by
  decide

/-! ### Delay, zero-fill, the host's port, ticks -/

/-- R111's entry step. -/
theorem test_delay_entry :
    (nextOf (step { atRow tiny .init 1 with ms := 250 })).map (fun s => (s.t0, s.delayOn, s.seq))
      = some (250, true, .row .init 1) := by decide
/-- R111: `T_RST_LOW = 3` across the wrap of an 8-bit counter: at difference 3 the poll passes. -/
theorem test_delay_wrap :
    eventsOf (step { atRow tiny .init 1 with ms := 1, t0 := 254, delayOn := true }) = some [.wait 3] := by decide
/-- At difference 2 it holds, and the tick source steps. -/
theorem test_delay_hold :
    (nextOf (step { atRow tiny .init 1 with ms := 0, t0 := 254, delayOn := true })).map (fun s => (s.ms, s.seq))
      = some (1, .row .init 1) := by decide
/-- R111: `n = 0` completes at the first poll. -/
theorem test_delay_zero :
    eventsOf (step { atRow tiny .init 3 with delayOn := true }) = some [.wait 0] := by decide
/-- R120: the zero-fill. -/
theorem test_zero_fill :
    (nextOf (step { atRow tiny .init 16 with fb := ⟨.unspecified 0, [(3, 5)]⟩ })).map (fun s => (s.fb, s.seq))
      = some (⟨.zero, []⟩, .idle) := by decide
theorem test_no_zero_fill :
    (nextOf (step { atRow bare .init 16 with fb := ⟨.unspecified 0, []⟩ })).map (·.fb)
      = some ⟨.unspecified 0, []⟩ := by decide
/-- R193's worked example: `FB[3] <- 0xFFFF` after INIT on 2 by 2. -/
theorem test_port_write :
    (nextOf (step { asked tiny [.fbWrite 3 0xFFFF] with fb := ⟨.zero, []⟩ })).map
        (fun s => (s.fb.pixels 4, s.trace)) = some ([0, 0, 0, 0xFFFF], []) := by decide
/-- V-A7: `FB[4] <- 1` on 2 by 2. -/
theorem test_port_range : refusalOf (step (asked tiny [.fbWrite 4 1])) = some (.fbIndexOutOfRange 4) := by decide
theorem test_port_unbuffered : refusalOf (step (asked bare [.fbRead 0])) = some .noFramebuffer := by decide
/-- A tick at `2^MSW - 1` wraps to 0 (10_state.md R29). -/
theorem test_tick_wrap :
    (nextOf (step { idle tiny with ms := 255, turns := [.tick] })).map (·.ms) = some 0 := by decide
/-- 70_reset_and_hazards.md R260: the tick source stops part way, and the next tick leaves `ms`. -/
theorem test_tick_stops :
    ((nextOf (step { idle tiny with ms := 7, turns := [.stopTick, .tick] })).bind (nextOf ∘ step)).map
        (fun s => (s.ms, s.tickOn)) = some (7, false) := by decide
/-- R252: it is started, and the next tick counts. -/
theorem test_tick_starts :
    ((nextOf (step { idle tiny with ms := 7, tickOn := false, turns := [.startTick, .tick] })).bind
        (nextOf ∘ step)).map (fun s => (s.ms, s.tickOn)) = some (8, true) := by decide
/-- V-A8: a reserved request word. -/
theorem test_reserved_refused :
    refusalOf (step (asked tiny [.request 0x7000000000000])) = some (.reservedRequest 7) := by decide
/-- While busy a request waits (60_exceptions.md R223). -/
theorem test_request_waits :
    (nextOf (step { atRow tiny .setpixel 0 with host := [.request 0x4000000000000] })).map (·.host)
      = some [.request 0x4000000000000] := by decide
/-- Writing what an unlisted entry reads as unlists the entry. -/
theorem test_write_canonical :
    (Fb.mk .zero [(1, 5), (2, 6)]).write 1 0 = ⟨.zero, [(2, 6)]⟩ := by decide
/-- 30_encoding.md R94: the text of a request. -/
theorem test_text : requestText (.setpixel 10 5 0xF800) = some "SETPIXEL 10, 5, 63488" := by decide
/-- 30_encoding.md R95: the text of an event. -/
theorem test_event_text : eventText (.txb [0x00, 0x0A]) = "TXB(00 0A)" := by decide

/-- 30_encoding.md R95: the short form. -/
theorem test_short_text :
    shortText [.res .low, .wait 10, .dc .low, .tx 0x2A, .dc .high, .txb [0x00, 0x0A]]
      = "RES(low) WAIT(10) C:2A D:00 D:0A" := by decide
/-- 00_scope.md R12: the run ends at IDLE with no request left; a framebuffer access that waits does not prolong it. -/
theorem test_run_ended :
    (idle tiny).runEnded = true ∧ (atRow tiny .init 0).runEnded = false
    ∧ (asked tiny [.fbRead 0]).runEnded = true
    ∧ (asked tiny [.fbRead 0, .request 0x4000000000000]).runEnded = false := by decide

/-! ### Witnesses: states and operands that meet the hypotheses of each statement -/

theorem witness_PowerUpState :
    (idle tiny).seqTurn = true ∧ (idle tiny).seq = .idle ∧ (idle tiny).host = []
    ∧ ({ idle tiny with res := .high, turns := [.sequencer, .tick] } : State).seqTurn = true := by decide
theorem witness_InvariantAtPowerUp : tiny.wf = true := by decide
theorem witness_DecodeAfterEncode : tiny.wf = true := by decide
theorem witness_EncodeAfterDecode :
    decode tiny (.request 0x1FFFF0000FFFF) = .ok (.init 0xFFFF 0 0xFFFF)
    ∧ decode tiny (.message [⟨.low, 0x2C⟩, ⟨.high, 1⟩, ⟨.high, 2⟩, ⟨.high, 3⟩, ⟨.high, 4⟩])
        = .ok (.ramwr 0x0102 [0x0304]) := by decide
theorem witness_FullWindowBytes : (1 : Coord) ≠ 0 ∧ (0xFFFF : Coord) ≠ 0 := by decide
theorem witness_PixelEndBounds :
    (0xFFFE : Coord) ≠ 0xFFFF ∧ (0 : Coord).toNat < (1 : Coord).toNat
    ∧ (0xFFFE : Coord).toNat < (0xFFFF : Coord).toNat := by decide
theorem witness_InitIsAccepted : (idle tiny).seq = .idle := by decide
theorem witness_SetpixelIsAcceptedInRange :
    (idle tiny).seq = .idle
    ∧ ((1 : Coord).toNat < (idle tiny).cfg.width.toNat ∧ (1 : Coord).toNat < (idle tiny).cfg.height.toNat)
    ∧ (idle tiny).cfg.width.toNat ≤ (2 : Coord).toNat
    ∧ (idle tiny).cfg.height.toNat ≤ (2 : Coord).toNat := by decide
theorem witness_RefreshIsAcceptedWhenBuffered :
    ((idle tiny).seq = .idle ∧ (idle tiny).cfg.buffered = true)
    ∧ ((idle bare).seq = .idle ∧ (idle bare).cfg.buffered = false) := by decide
theorem witness_GetwidthReturnsWidth :
    (idle bare).seq = .idle ∧ (idle bare).cfg.width = 240
    ∧ exec (.getwidth 0 0 0) (idle bare) = .next { idle bare with rsp := 0x00F0 } := ⟨by decide, by decide, rfl⟩
theorem witness_GetheightReturnsHeight :
    (idle bare).seq = .idle ∧ (idle bare).cfg.height = 320
    ∧ exec (.getheight 0 0 0) (idle bare) = .next { idle bare with rsp := 0x0140 } := ⟨by decide, by decide, rfl⟩
theorem witness_GetbufferReturnsZero :
    ((idle tiny).seq = .idle ∧ (idle tiny).cfg.buffered = true)
    ∧ ((idle bare).seq = .idle ∧ (idle bare).cfg.buffered = false) := by decide
theorem witness_RequestsWaitWhileBusy :
    (atRow tiny .init 0).busy = true ∧ (Instr.setpixel 2 2 0).isRequest = true
    ∧ (nextOf (step (atRow tiny .init 0))).isSome = true := by decide
theorem witness_ReservedRequestsAreRefused :
    ((asked tiny [.request 0]).seqTurn = true ∧ (asked tiny [.request 0]).seq = .idle
      ∧ BitVec.extractLsb' 48 3 (0 : ReqWord) = 0)
    ∧ BitVec.extractLsb' 48 3 (0x7FFFFFFFFFFFF : ReqWord) = 7
    ∧ ((asked bare [.request 0x3000000000000]).seqTurn = true ∧ bare.buffered = false
      ∧ BitVec.extractLsb' 48 3 (0x3000000000000 : ReqWord) = 3)
    ∧ BitVec.extractLsb' 48 3 (0x6000000000000 : ReqWord) = 6 := by decide
theorem witness_WindowCommandsSendFourBytes :
    (atRow tiny .setpixel 0).seq.inParams = false ∧ (atRow tiny .setpixel 1).seq.inParams = true := by decide
theorem witness_MemoryWriteSendsPixels :
    (atRow tiny .setpixel 4).seq.inParams = false ∧ (atRow tiny .setpixel 5).seq.inParams = true := by decide
theorem witness_PixelFormatSendsOneByte :
    (atRow tiny .init 8).seq.inParams = false ∧ (atRow tiny .init 9).seq.inParams = true := by decide
theorem witness_StepRunsDecodedRequest :
    (asked tiny [.request 0x2000000000000]).seqTurn = true
    ∧ (asked tiny [.request 0x2000000000000]).seq = .idle
    ∧ decodeRequest 0x2000000000000 = .ok (.setpixel 0 0 0) := by decide
theorem witness_StepRunsWireCommand :
    (atRow tiny .init 4).seqTurn = true ∧ (atRow tiny .init 4).seq = .row .init 4
    ∧ rowAt (atRow tiny .init 4) .init 4 = some (.wire .swreset)
    ∧ rowAt (atRow tiny .setpixel 5) .setpixel 5 = some (.wire (.ramwr 0 [])) := by decide
/-- The tick source's turn, given or by default, running or not; the turns that stop and start it. -/
theorem witness_TickIncrementsCounter :
    (({ idle tiny with turns := [.tick] } : State).nextTurn = .tick ∧ (idle tiny).tickOn = true)
    ∧ (heldDelay.nextTurn = .tick ∧ heldDelay.turns = [] ∧ heldDelay.tickOn = true)
    ∧ ({ heldDelay with turns := [.tick], tickOn := false } : State).nextTurn = .tick
    ∧ ({ idle tiny with turns := [.stopTick] } : State).nextTurn = .stopTick
    ∧ ({ idle tiny with turns := [.startTick] } : State).nextTurn = .startTick := by decide
theorem witness_InitTableRows :
    ((atRow tiny .init 0).seqTurn = true ∧ 0 ∉ (initDelays tiny).map Prod.fst)
    ∧ ((atRow tiny .init 16).seqTurn = true ∧ 16 ∉ (initDelays tiny).map Prod.fst) := by decide
theorem witness_DelayRows :
    ((atRow tiny .init 1).seqTurn = true ∧ (1, 3) ∈ initDelays tiny ∧ (7, 2) ∈ initDelays tiny
      ∧ (atRow tiny .init 1).delayOn = false)
    ∧ (({ atRow tiny .init 1 with delayOn := true, ms := 2, turns := [.sequencer] } : State).seqTurn = true
      ∧ ((2 : Int) - 0) % (2 ^ tiny.msw : Nat) < 3)
    ∧ (({ atRow tiny .init 1 with delayOn := true, ms := 3 } : State).seqTurn = true
      ∧ (3 : Int) ≤ ((3 : Int) - 0) % (2 ^ tiny.msw : Nat)) := by decide
theorem witness_DelayAcrossTheWrap :
    ({ idle .default with t0 := 0xFFFFFFFA, ms := 3 } : State).cfg.msw = 32
    ∧ ({ idle .default with t0 := 0xFFFFFFFA, ms := 3 } : State).t0 = 0xFFFFFFFA
    ∧ ({ idle .default with t0 := 0xFFFFFFFA, ms := 4 } : State).ms = 4
    ∧ ({ idle .default with t0 := 0xFFFFFFFA, ms := 0 } : State).ms = 0
    ∧ ({ idle .default with t0 := 0xFFFFFFFA, ms := 0xFFFFFFFB } : State).ms = 0xFFFFFFFB
    ∧ ({ idle .default with t0 := 0xFFFFFFFA, ms := 0xFFFFFFFF } : State).ms = 0xFFFFFFFF :=
  ⟨rfl, rfl, rfl, rfl, rfl, rfl⟩
theorem witness_SetpixelTableRows :
    ((atRow tiny .setpixel 0).seqTurn = true ∧ (atRow tiny .setpixel 0).seq = .row .setpixel 0)
    ∧ ((atRow tiny .setpixel 5).seqTurn = true ∧ (atRow tiny .setpixel 5).seq = .row .setpixel 5) := by decide
theorem witness_RefreshTableRows :
    (tiny.wf = true ∧ (atRow tiny .refresh 0).seqTurn = true ∧ (atRow tiny .refresh 0).seq = .row .refresh 0)
    ∧ ((atRow tiny .refresh 5).seqTurn = true ∧ (atRow tiny .refresh 5).seq = .row .refresh 5) := by decide
theorem witness_HostPortAccess :
    ((asked tiny [.fbWrite 3 7]).seqTurn = true ∧ (asked tiny [.fbWrite 3 7]).seq = .idle
      ∧ tiny.buffered = true ∧ 3 < tiny.width.toNat * tiny.height.toNat)
    ∧ (asked tiny [.fbRead 3]).host = [.fbRead 3]
    ∧ ((asked tiny [.fbWrite 4 7]).seqTurn = true ∧ tiny.width.toNat * tiny.height.toNat ≤ 4)
    ∧ ((asked bare [.fbRead 0]).seqTurn = true ∧ bare.buffered = false) := by decide
theorem witness_SetpixelSendsThirteenFrames :
    (asked tiny [.request 0x2000100011234]).seq = .idle ∧ (asked tiny [.request 0x2000100011234]).turns = []
    ∧ decodeRequest 0x2000100011234 = .ok (.setpixel 1 1 0x1234)
    ∧ (1 : Coord).toNat < tiny.width.toNat ∧ (1 : Coord).toNat < tiny.height.toNat := by decide
theorem witness_RefreshSendsWholeBuffer :
    tiny.wf = true ∧ tiny.buffered = true ∧ (asked tiny [.request 0x3000000000000]).seq = .idle
    ∧ (asked tiny [.request 0x3000000000000]).turns = []
    ∧ decodeRequest 0x3000000000000 = .ok (.refresh 0 0 0) := by decide
theorem witness_RefreshIsIdempotent :
    tiny.wf = true ∧ tiny.buffered = true
    ∧ (asked tiny [.request 0x3000000000000, .request 0x3000000000000]).seq = .idle
    ∧ (asked tiny [.request 0x3000000000000, .request 0x3000000000000]).turns = []
    ∧ decodeRequest 0x3000000000000 = .ok (.refresh 0 0 0)
    ∧ ({ tiny with pixfmt := 0x05 } : Config).cmdRamwr = tiny.cmdRamwr := by decide
theorem witness_InitRunsToIdle :
    tiny.wf = true ∧ (asked tiny [.request 0x1000000000000]).ms < 2 ^ tiny.msw
    ∧ (asked tiny [.request 0x1000000000000]).delayOn = false
    ∧ (asked tiny [.request 0x1000000000000]).tickOn = true
    ∧ (asked tiny [.request 0x1000000000000]).seq = .idle
    ∧ (asked tiny [.request 0x1000000000000]).turns = []
    ∧ decodeRequest 0x1000000000000 = .ok (.init 0 0 0) := by decide
theorem witness_SecondInitIsLikeTheFirst :
    tiny.wf = true
    ∧ ({ asked tiny [.request 0x1000000000000, .request 0x1000000000000] with ms := 255 } : State).ms < 2 ^ tiny.msw
    ∧ (asked tiny [.request 0x1000000000000, .request 0x1000000000000]).seq = .idle
    ∧ (asked tiny [.request 0x1000000000000, .request 0x1000000000000]).delayOn = false
    ∧ (asked tiny [.request 0x1000000000000, .request 0x1000000000000]).tickOn = true
    ∧ (asked tiny [.request 0x1000000000000, .request 0x1000000000000]).turns = []
    ∧ decodeRequest 0x1000000000000 = .ok (.init 0 0 0)
    ∧ tiny.buffered = true ∧ ({ tiny with buffered := false } : Config).wf = true := by decide
/-- The second clause: a host write of entry 3 between the two requests. -/
theorem witness_SecondInitZeroFillsAgain :
    tiny.wf = true ∧ tiny.buffered = true ∧ 3 < tiny.width.toNat * tiny.height.toNat
    ∧ (asked tiny [.request 0x1000000000000, .fbWrite 3 7, .request 0x1000000000000]).seq = .idle
    ∧ (asked tiny [.request 0x1000000000000, .fbWrite 3 7, .request 0x1000000000000]).turns = []
    ∧ (asked tiny [.request 0x1000000000000, .fbWrite 3 7, .request 0x1000000000000]).host
      = [.request 0x1000000000000, .fbWrite 3 7, .request 0x1000000000000] := by decide
/-- Entry, three ticks, the passing poll: five steps. -/
theorem witness_DelayIsALowerBound :
    (1, 3) ∈ initDelays tiny ∧ (atRow tiny .init 1).seq = .row .init 1 ∧ (atRow tiny .init 1).delayOn = false
    ∧ (∃ t : State, Sys2Proof.core.run 5 (atRow tiny .init 1) = .next t ∧ t.seq = .row .init 2)
    ∧ ticksIn 5 (atRow tiny .init 1) = 3 :=
  ⟨by decide, by decide, by decide, ⟨_, rfl, rfl⟩, by decide⟩
theorem witness_StoppedTickHangs :
    ({ heldDelay with tickOn := false, turns := [.tick, .sequencer] } : State).tickOn = false
    ∧ Turn.startTick ∉ ({ heldDelay with tickOn := false, turns := [.tick, .sequencer] } : State).turns
    ∧ ({ heldDelay with tickOn := false, turns := [.tick, .sequencer] } : State).holding = true := by decide

/-- A step that answers a next state, from each kind of state: IDLE with a request, a tick, a row, a held poll. -/
theorem witness_PositionAdvancesInOrder :
    (nextOf (step (asked tiny [.request 0x1000000000000]))).isSome = true
    ∧ (nextOf (step { atRow tiny .init 2 with turns := [.tick] })).isSome = true
    ∧ (nextOf (step (atRow tiny .init 16))).isSome = true
    ∧ (nextOf (step { atRow tiny .init 1 with delayOn := true, turns := [.sequencer] })).isSome = true := by decide
theorem witness_ConfigurationIsConstant :
    (nextOf (step (atRow tiny .init 16))).isSome = true ∧ (nextOf (exec .swreset (idle tiny))).isSome = true := by
  decide
theorem witness_FramebufferWriters :
    (nextOf (step (atRow tiny .init 16))).map (·.fb) = some ⟨.zero, []⟩
    ∧ (nextOf (step (asked tiny [.fbWrite 3 7]))).map (·.fb) = some ⟨.unspecified 0, [(3, 7)]⟩ := by decide
theorem witness_ResetLineWriters :
    (nextOf (step (atRow tiny .init 0))).map (·.res) = some .low
    ∧ (nextOf (step { atRow tiny .init 2 with res := .low })).map (·.res) = some .high := by decide
theorem witness_CounterAndWaitLatchWriters :
    (nextOf (step { idle tiny with turns := [.tick] })).map (·.ms) = some 1
    ∧ (nextOf (step { idle tiny with turns := [.stopTick] })).map (·.tickOn) = some false
    ∧ (nextOf (step { idle tiny with tickOn := false, turns := [.startTick] })).map (·.tickOn) = some true
    ∧ (nextOf (step { atRow tiny .init 7 with ms := 9 })).map (·.t0) = some 9 := by decide
theorem witness_LatchAndResponseWriters :
    (nextOf (step (asked tiny [.request 0x4000100020003]))).map (fun s => (s.x, s.y, s.c, s.rsp))
      = some (1, 2, 3, 2) := by decide
theorem witness_StepEmitsOnePrimitive :
    eventsOf (step (atRow tiny .init 0)) = some [.res .low]
    ∧ eventsOf (step (atRow tiny .init 9)) = some [.dc .high, .tx 0x55]
    ∧ tiny.wf = true := by decide
theorem witness_BusyNeverStops :
    ({ atRow tiny .init 1 with res := .low, trace := [.res .low] } : State).inv = true
    ∧ ({ atRow tiny .init 1 with res := .low, trace := [.res .low] } : State).busy = true := by decide
theorem witness_RefusalsAreAtTheBoundary :
    ((asked tiny [.request 0x2000200000000]).inv = true
      ∧ refusalOf (step (asked tiny [.request 0x2000200000000])) = some .coordinatesOutOfRange)
    ∧ ((asked tiny [.request 0]).inv = true
      ∧ refusalOf (step (asked tiny [.request 0])) = some (.reservedRequest 0))
    ∧ ((asked tiny [.fbRead 4]).inv = true
      ∧ refusalOf (step (asked tiny [.fbRead 4])) = some (.fbIndexOutOfRange 4)) := by decide
/-- An unbuffered instance meets the invariant too, and its refusals are the two others. -/
theorem witness_RefusalsOfTheUnbufferedVariant :
    (asked { tiny with buffered := false } [.request 0x3000000000000]).inv = true
    ∧ refusalOf (step (asked { tiny with buffered := false } [.request 0x3000000000000])) = some .bufferedOnly
    ∧ refusalOf (step (asked { tiny with buffered := false } [.fbRead 0])) = some .noFramebuffer := by decide
theorem witness_InvariantIsKept :
    (asked tiny [.request 0x1000000000000]).inv = true
    ∧ (nextOf (step (asked tiny [.request 0x1000000000000]))).isSome = true
    ∧ (nextOf (step (asked tiny [.request 0x1000000000000]))).all (·.inv) = true := by decide
/-- After one completed SETPIXEL, in the middle of a second. -/
def secondPixel : State :=
  { atRow tiny .setpixel 1 with
    x := 1, y := 1, c := 2, dc := .low
    trace := setpixelEvents tiny 0 1 7 ++ [.dc .low, .tx tiny.cmdCaset] }
theorem witness_TraceIsWholeOperations :
    secondPixel.inv = true ∧ WellTraced secondPixel ∧ (nextOf (step secondPixel)).isSome = true :=
  ⟨by decide, ⟨[.setpixel 0 1 7], by decide, by decide⟩, by decide⟩
theorem witness_WindowBeforeEveryWrite : secondPixel.inv = true ∧ WellTraced secondPixel :=
  ⟨by decide, ⟨[.setpixel 0 1 7], by decide, by decide⟩⟩
theorem witness_WindowIsProgrammed : tiny.wf = true := by decide
theorem witness_BeatsOfATransportCall :
    ([1, 2, 3] : List Byte) ≠ []
    ∧ (Event.beats (.txb [1, 2, 3]))[0]? = some ⟨1, true, false⟩
    ∧ (Event.beats (.txb [1, 2, 3]))[2]? = some ⟨3, false, true⟩ := by decide
theorem witness_ReadAfterWrite : (Fb.mk .zero [(1, 5), (3, 6)]).wf = true := by decide
theorem witness_CanonicalFormIsUnique :
    (Fb.mk .zero [(1, 5)]).wf = true ∧ ((Fb.mk .zero []).write 1 5).wf = true
    ∧ (Fb.mk .zero [(1, 5)]).background = .zero
    ∧ (∀ i, (Fb.mk .zero [(1, 5)]).read i = ((Fb.mk .zero []).write 1 5).read i) :=
  ⟨by decide, by decide, by decide, fun _ => rfl⟩
theorem witness_RowMajorIndexIsInjective :
    (1 : Coord).toNat < tiny.width.toNat ∧ (1 : Coord).toNat < tiny.height.toNat
    ∧ (0 : Coord).toNat < tiny.width.toNat ∧ (0 : Coord).toNat < tiny.height.toNat := by decide
theorem witness_StreamBytesInOrder : 3 < 4 := by decide

/-- The tick source and the sequencer in turn. -/
def alternate (i : Nat) : Turn := if i % 2 = 0 then .tick else .sequencer
theorem tickRunning_alternate (i : Nat) : tickRunning alternate true i = true := by
  induction i with
  | zero => rfl
  | succ i ih =>
    unfold tickRunning
    by_cases h : i % 2 = 0 <;> simp [alternate, h, ih]
theorem witness_FairTicksEndEveryOperation :
    heldDelay.inv = true ∧ heldDelay.busy = true
    ∧ FairTicks alternate heldDelay.tickOn ∧ PollsBetweenTicks alternate := by
  refine ⟨by decide, by decide, fun n => ⟨2 * n, by omega, by simp [alternate], tickRunning_alternate _⟩, ?_⟩
  intro a b hab ha hb
  have ha' : a % 2 = 0 := by by_contra h; simp [alternate, h] at ha
  have hb' : b % 2 = 0 := by by_contra h; simp [alternate, h] at hb
  exact ⟨a + 1, by omega, by omega, by simp [alternate, show (a + 1) % 2 ≠ 0 by omega]⟩

/-- The tick source stops before it has ever stepped; its later turns do nothing. -/
def stopped (i : Nat) : Turn := if i = 0 then .stopTick else alternate i
theorem tickRunning_stopped (i : Nat) : tickRunning stopped true (i + 1) = false := by
  induction i with
  | zero => rfl
  | succ i ih =>
    unfold tickRunning
    by_cases h : (i + 1) % 2 = 0 <;> simp [stopped, alternate, h, ih]
theorem witness_NoTicksHangForEver :
    heldDelay.holding = true ∧ NoTicks stopped heldDelay.tickOn
    ∧ NoTicks (fun _ => .sequencer) heldDelay.tickOn := by
  refine ⟨by decide, fun i h => ?_, fun i h => by cases h⟩
  cases i with
  | zero => cases h
  | succ i => exact tickRunning_stopped i

end Sys2Proof.Tests
end

section
/-! The bytes of a 16-bit value as numbers (00_scope.md R7), and the statement of that section. -/

namespace Sys2Proof

/-- Bits 15 to 8: the shift by 8 is a division by 256, and its result already fits a byte. -/
@[simp] theorem toNat_hi (v : BitVec 16) : (hi v).toNat = v.toNat / 256 := by
  have fits : v.toNat / 256 < 256 := by omega
  simp [hi, Nat.shiftRight_eq_div_pow, Nat.mod_eq_of_lt fits]

/-- Bits 7 to 0: what the truncation to a byte keeps. -/
@[simp] theorem toNat_lo (v : BitVec 16) : (lo v).toNat = v.toNat % 256 := by
  simp [lo]

/-- Settles O6: the order of the bytes is `be16` itself, and each byte is pinned by its own lemma. -/
theorem bytesAreBigEndian : Obligations.BytesAreBigEndian :=
  fun v => ⟨rfl, toNat_hi v, toNat_lo v⟩

end Sys2Proof
end

section
/-! Everything one step can do, once, as a case list: a turn of the environment, a host action honoured at IDLE, or one
row of a micro-step table (00_scope.md R11; 10_state.md R23, R34). The statements about every step are read off it. -/

namespace Sys2Proof.Machine

/-- The moves from `s` of a step that answers a next state. A row's case names the micro-step the table has there, and a
wire row's case says which part of the message goes out. -/
inductive Move (s : State) : State → Prop
  /-- A turn that is not the sequencer's. -/
  | environment (turn : s.seqTurn = false) :
      Move s { s with
        turns := s.turns.tail
        ms := if s.nextTurn = .tick ∧ s.tickOn = true then (s.ms + 1) % s.cfg.msMod else s.ms
        tickOn :=
          if s.nextTurn = .stopTick then false
          else if s.nextTurn = .startTick then true else s.tickOn }
  /-- IDLE, and the host presents nothing. -/
  | nothing (idle : s.seq = .idle) (empty : s.host = []) : Move s { s with turns := s.turns.tail }
  /-- A request that starts an operation, one that is offered with these operands. -/
  | start (op : Op) (w : ReqWord) (rest : List HostAct) (idle : s.seq = .idle)
      (head : s.host = .request w :: rest) (code : reqOp w = 1 ∨ reqOp w = 2 ∨ reqOp w = 3)
      (offered : opOk { s with x := reqX w, y := reqY w, seq := .row op 0 } = true) :
      Move s { s with
        turns := s.turns.tail, host := rest
        x := reqX w, y := reqY w, c := reqColor w, seq := .row op 0 }
  /-- A request answered at once. -/
  | answer (v : BitVec 16) (w : ReqWord) (rest : List HostAct) (idle : s.seq = .idle)
      (head : s.host = .request w :: rest)
      (value : reqOp w = 4 ∧ v = s.cfg.width ∨ reqOp w = 5 ∧ v = s.cfg.height ∨ reqOp w = 6 ∧ v = 0) :
      Move s { s with
        turns := s.turns.tail, host := rest
        x := reqX w, y := reqY w, c := reqColor w, rsp := v }
  /-- A framebuffer entry written through the host's port. -/
  | fbWrite (i : Nat) (v : Color) (rest : List HostAct) (idle : s.seq = .idle)
      (head : s.host = .fbWrite i v :: rest) (buffered : s.cfg.buffered = true) (inside : i < s.cfg.size) :
      Move s { s with turns := s.turns.tail, host := rest, fb := s.fb.write i v }
  /-- A framebuffer entry read through the host's port. -/
  | fbRead (i : Nat) (rest : List HostAct) (idle : s.seq = .idle)
      (head : s.host = .fbRead i :: rest) (buffered : s.cfg.buffered = true) (inside : i < s.cfg.size) :
      Move s { s with turns := s.turns.tail, host := rest, fbRdata := s.fb.read i }
  /-- A pin row. -/
  | pin (op : Op) (k : Nat) (l : Level) (pos : s.seq = .row op k) (row : rowAt s op k = some (.pin l)) :
      Move s { s with
        turns := s.turns.tail, res := l.line, seq := nextSeq op k, trace := s.trace ++ [.res l] }
  /-- The entry step of a Delay. -/
  | delayEntry (op : Op) (k n : Nat) (pos : s.seq = .row op k) (row : rowAt s op k = some (.delay n))
      (off : s.delayOn = false) :
      Move s { s with turns := s.turns.tail, t0 := s.ms, delayOn := true }
  /-- A poll of a Delay that holds. -/
  | delayHold (op : Op) (k n : Nat) (pos : s.seq = .row op k) (row : rowAt s op k = some (.delay n))
      (on : s.delayOn = true) (held : s.waitOver n = false) :
      Move s { s with turns := s.turns.tail }
  /-- A poll of a Delay that passes. -/
  | delayPass (op : Op) (k n : Nat) (pos : s.seq = .row op k) (row : rowAt s op k = some (.delay n))
      (on : s.delayOn = true) (passed : s.waitOver n = true) :
      Move s { s with
        turns := s.turns.tail, delayOn := false, seq := nextSeq op k, trace := s.trace ++ [.wait n] }
  /-- The command frame of a wire message. -/
  | command (op : Op) (k : Nat) (i : Instr) (b : Byte) (pos : s.seq = .row op k)
      (row : rowAt s op k = some (.wire i)) (part : (Seq.row op k).inParams = false)
      (emitted : b ∈ s.cfg.emittedBytes) :
      Move s { s with
        turns := s.turns.tail, dc := .low, seq := nextSeq op k, trace := s.trace ++ [.dc .low, .tx b] }
  /-- The data part of a wire message, one byte. -/
  | dataByte (op : Op) (k : Nat) (i : Instr) (b : Byte) (pos : s.seq = .row op k)
      (row : rowAt s op k = some (.wire i)) (part : (Seq.row op k).inParams = true) :
      Move s { s with
        turns := s.turns.tail, dc := .high, seq := nextSeq op k, trace := s.trace ++ [.dc .high, .tx b] }
  /-- The data part of a wire message, one call of at least one byte. -/
  | dataBuf (op : Op) (k : Nat) (i : Instr) (bs : List Byte) (pos : s.seq = .row op k)
      (row : rowAt s op k = some (.wire i)) (part : (Seq.row op k).inParams = true) (nonempty : bs ≠ []) :
      Move s { s with
        turns := s.turns.tail, dc := .high, seq := nextSeq op k, trace := s.trace ++ [.dc .high, .txb bs] }
  /-- INIT's last row. -/
  | zeroFill (op : Op) (k : Nat) (pos : s.seq = .row op k) (row : rowAt s op k = some .zeroFill) :
      Move s { s with
        turns := s.turns.tail, seq := nextSeq op k
        fb := if s.cfg.buffered then Fb.zeroFilled else s.fb }

/-! ### Which part of its message a wire row sends -/

/-- Away from the data rows a wire command sends its command frame. -/
theorem exec_wire_of_command {i : Instr} {s t : State} (hr : i.isRequest = false)
    (hp : s.seq.inParams = false) (h : exec i s = .next t) :
    ∃ b ∈ s.cfg.emittedBytes, t = writeCommand b s := by
  cases i <;> simp only [Instr.isRequest, reduceCtorEq] at hr <;>
    simp only [exec, execSwreset, execSlpout, execInvon, execDispon, execCaset, execRaset, execRamwr,
      execColmod, execRamwrc, sendPart_command hp, Host.Outcome.next.injEq, reduceCtorEq] at h <;>
    exact ⟨_, by simp [Config.emittedBytes], h.symm⟩

/-- The data rows of the three tables. -/
theorem inParams_row {op : Op} {k : Nat} :
    (Seq.row op k).inParams = true ↔
      op = .init ∧ (k = 9 ∨ k = 13 ∨ k = 15) ∨
      (op = .setpixel ∨ op = .refresh) ∧ (k = 1 ∨ k = 3 ∨ k = 5) := by
  cases op <;> simp [Seq.inParams, or_assoc]

/-- The wire command of a data row is one that has data. -/
theorem rowAt_wire_of_inParams {s : State} {op : Op} {k : Nat} {i : Instr}
    (h : rowAt s op k = some (.wire i)) (hp : (Seq.row op k).inParams = true) :
    (∃ a b, i = .caset a b) ∨ (∃ a b, i = .raset a b) ∨ (∃ p ps, i = .ramwr p ps) ∨ ∃ f, i = .colmod f := by
  rcases inParams_row.1 hp with ⟨rfl, rfl | rfl | rfl⟩ | ⟨rfl | rfl, rfl | rfl | rfl⟩ <;> cases h <;> simp

/-- At a data row a wire command sends its data. -/
theorem exec_wire_of_params {i : Instr} {s t : State} {op : Op} {k : Nat} (hq : s.seq = .row op k)
    (hr : rowAt s op k = some (.wire i)) (hp : s.seq.inParams = true) (h : exec i s = .next t) :
    (∃ b, t = writeData8 b s) ∨ ∃ bs, bs ≠ [] ∧ t = writeDataBuf bs s := by
  rcases rowAt_wire_of_inParams hr (hq ▸ hp) with ⟨a, b, rfl⟩ | ⟨a, b, rfl⟩ | ⟨p, ps, rfl⟩ | ⟨f, rfl⟩ <;>
    simp only [exec, execCaset, execRaset, execRamwr, execColmod, sendPart_params hp,
      Host.Outcome.next.injEq] at h
  · exact .inr ⟨_, by simp [windowBytes, be16], h.symm⟩
  · exact .inr ⟨_, by simp [windowBytes, be16], h.symm⟩
  · exact .inr ⟨_, by simp [pixelBytes, be16], h.symm⟩
  · exact .inl ⟨f, h.symm⟩

/-! ### Every step is a move -/

theorem zeroFill_eq (s : State) :
    zeroFill s = { s with fb := if s.cfg.buffered then Fb.zeroFilled else s.fb } := by
  unfold zeroFill; split <;> rfl

/-- A request accepted at IDLE starts its operation or is answered. -/
theorem Move.of_request {s u : State} {w : ReqWord} {rest : List HostAct} {i : Instr}
    (hq : s.seq = .idle) (hh : s.host = .request w :: rest) (hd : decodeRequest w = .ok i)
    (h : exec i s.popTurn = .next u) : Move s (u.setHost rest) := by
  obtain ⟨hreq, hcode⟩ := decodeRequest_cases hd
  rcases exec_request_cases hreq h with ⟨hb, -⟩ | ⟨-, h⟩
  · rw [busy_eq_false.2 (by exact hq)] at hb; cases hb
  · rcases h with ⟨x, y, c, rfl, rfl⟩ | ⟨x, y, c, rfl, hin, rfl⟩ | ⟨x, y, c, rfl, hin, rfl⟩ |
      ⟨x, y, c, rfl, rfl⟩ | ⟨x, y, c, rfl, rfl⟩ | ⟨x, y, c, rfl, -, rfl⟩ <;>
      simp only [Instr.init.injEq, Instr.setpixel.injEq, Instr.refresh.injEq, Instr.getwidth.injEq,
        Instr.getheight.injEq, Instr.getbuffer.injEq, reduceCtorEq, and_false, or_false, false_or] at hcode <;>
      obtain ⟨hcode, rfl, rfl, rfl⟩ := hcode
    · exact .start .init w rest hq hh (.inl hcode) rfl
    · exact .start .setpixel w rest hq hh (.inr (.inl hcode)) hin
    · exact .start .refresh w rest hq hh (.inr (.inr hcode)) hin
    · exact .answer _ w rest hq hh (.inl ⟨hcode, rfl⟩)
    · exact .answer _ w rest hq hh (.inr (.inl ⟨hcode, rfl⟩))
    · exact .answer _ w rest hq hh (.inr (.inr ⟨hcode, rfl⟩))

/-- The sequencer's step at IDLE. -/
theorem Move.of_idleStep {s t : State} (hq : s.seq = .idle) (h : idleStep s.popTurn = .next t) :
    Move s t := by
  rcases idleStep_cases h with ⟨hh, rfl⟩ | ⟨w, rest, i, u, hh, hd, hx, rfl⟩ |
    ⟨i, v, rest, hh, hb, hi, rfl⟩ | ⟨i, rest, hh, hb, hi, rfl⟩
  · exact .nothing hq hh
  · exact .of_request hq hh hd hx
  · exact .fbWrite i v rest hq hh hb hi
  · exact .fbRead i rest hq hh hb hi

/-- The sequencer's step at a row. -/
theorem Move.of_microStep {s t : State} {op : Op} {k : Nat} (hq : s.seq = .row op k)
    (h : microStep op k s.popTurn = .next t) : Move s t := by
  have hq' : s.popTurn.seq = .row op k := hq
  rcases microStep_cases h with ⟨l, hr, rfl⟩ | ⟨n, hr, rfl⟩ | ⟨i, u, hr, hx, rfl⟩ | ⟨hr, rfl⟩
  · exact .pin op k l hq hr
  · cases hd : s.popTurn.delayOn with
    | false => rw [delayStep_entry hd]; exact .delayEntry op k n hq hr hd
    | true =>
      cases hw : s.popTurn.waitOver n with
      | false => rw [delayStep_hold hd hw]; exact .delayHold op k n hq hr hd hw
      | true => rw [delayStep_pass hd hw]; exact .delayPass op k n hq hr hd hw
  · cases hp : s.popTurn.seq.inParams with
    | false =>
      obtain ⟨b, hb, rfl⟩ := exec_wire_of_command (rowAt_wire hr) hp hx
      rw [writeCommand_eq]; exact .command op k i b hq hr (hq' ▸ hp) hb
    | true =>
      rcases exec_wire_of_params hq' hr hp hx with ⟨b, rfl⟩ | ⟨bs, hb, rfl⟩
      · rw [writeData8_eq]; exact .dataByte op k i b hq hr (hq' ▸ hp)
      · rw [writeDataBuf_eq]; exact .dataBuf op k i bs hq hr (hq' ▸ hp) hb
  · rw [zeroFill_eq]; exact .zeroFill op k hq hr

/-- Every step that answers a next state is one of the moves. -/
theorem Move.of_step {s t : State} (h : step s = .next t) : Move s t := by
  rcases step_cases h with ⟨hs, rfl⟩ | ⟨-, hq, h⟩ | ⟨-, op, k, hq, h⟩
  · rw [environmentStep_eq]; exact .environment hs
  · exact .of_idleStep hq h
  · exact .of_microStep hq h

end Sys2Proof.Machine
end

section
/-! The invariant `State.inv`, part by part: what each move keeps, and the statements that it holds at power-up and that
every step keeps it. -/

namespace Sys2Proof.Machine

theorem inv_iff {s : State} :
    s.inv = true ↔
      s.cfg.wf = true ∧ s.seq.legal = true ∧ s.ms < s.cfg.msMod ∧ s.t0 < s.cfg.msMod
      ∧ (s.delayOn = true → (delayAt s.cfg s.seq).isSome = true)
      ∧ resLevelOk s.seq s.res = true ∧ dcLevelOk s.seq s.dc = true
      ∧ lastRes .u s.trace = s.res ∧ lastDc .u s.trace = s.dc ∧ opOk s = true ∧ fbOk s = true := by
  cases hd : s.delayOn <;> simp [State.inv, hd, and_assoc]

theorem fbOk_iff {s : State} :
    fbOk s = true ↔
      s.fb.wf = true ∧ s.fb.below s.cfg.size = true
      ∧ (s.cfg.buffered = true ∨ s.fb.cells.isEmpty = true) := by
  simp [fbOk, and_assoc]

theorem msMod_pos (cfg : Config) : 0 < cfg.msMod := Nat.two_pow_pos _

/-! ### What the next position asks -/

theorem nextSeq_legal (op : Op) (k : Nat) : (nextSeq op k).legal = true := by
  unfold nextSeq
  split
  · simpa [Seq.legal] using ‹k < op.last›
  · rfl

/-- The rows at which `delayAt` has a count hold a Delay. -/
theorem rowAt_of_delayAt {s : State} {op : Op} {k n : Nat} (h : delayAt s.cfg (.row op k) = some n) :
    rowAt s op k = some (.delay n) := by
  obtain ⟨rfl, rfl | rfl | rfl | rfl⟩ := delayAt_some h <;> cases h <;> rfl

/-- The wait bit is off at a row that holds no Delay. -/
theorem delayOn_eq_false {s : State} {op : Op} {k : Nat} {m : MicroStep} (pos : s.seq = .row op k)
    (row : rowAt s op k = some m) (hm : ∀ n, m ≠ .delay n)
    (h : s.delayOn = true → (delayAt s.cfg s.seq).isSome = true) : s.delayOn = false := by
  by_contra on
  obtain ⟨n, hn⟩ := Option.isSome_iff_exists.1 (h (by simpa using on))
  exact hm n (Option.some.inj (row.symm.trans (rowAt_of_delayAt (pos ▸ hn))))

/-- Away from the pin rows, the level `RES` has at a row is one it may have at the next position. -/
theorem resLevelOk_nextSeq {s : State} {op : Op} {k : Nat} {m : MicroStep} (row : rowAt s op k = some m)
    (hm : ∀ l, m ≠ .pin l) {l : Line} (h : resLevelOk (.row op k) l = true) :
    resLevelOk (nextSeq op k) l = true := by
  cases op
  case setpixel => unfold nextSeq; split <;> exact h
  case refresh => unfold nextSeq; split <;> exact h
  case init =>
    have h0 : k ≠ 0 := by rintro rfl; exact hm .low (Option.some.inj row.symm)
    have h2 : k ≠ 2 := by rintro rfl; exact hm .high (Option.some.inj row.symm)
    unfold nextSeq
    split
    · have early : k + 1 ≤ 2 ↔ k ≤ 2 := by omega
      simpa [resLevelOk, h0, early] using h
    · have late : ¬ k ≤ 2 := by simp only [Op.last] at *; omega
      have hl : l = .high := by simpa [resLevelOk, h0, late] using h
      subst hl; rfl

/-- After a pin row `RES` has the level the next row asks for. -/
theorem resLevelOk_after_pin {s : State} {op : Op} {k : Nat} {l : Level}
    (row : rowAt s op k = some (.pin l)) : resLevelOk (nextSeq op k) l.line = true := by
  obtain ⟨rfl, ⟨rfl, rfl⟩ | ⟨rfl, rfl⟩⟩ := rowAt_pin row <;> rfl

/-- After a pin row nothing is asked of `DC`. -/
theorem dcLevelOk_after_pin {s : State} {op : Op} {k : Nat} {l : Level}
    (row : rowAt s op k = some (.pin l)) (d : Line) : dcLevelOk (nextSeq op k) d = true := by
  obtain ⟨rfl, ⟨rfl, -⟩ | ⟨rfl, -⟩⟩ := rowAt_pin row <;> rfl

/-- After a Delay nothing is asked of `DC`. -/
theorem dcLevelOk_after_delay {s : State} {op : Op} {k n : Nat} (row : rowAt s op k = some (.delay n))
    (d : Line) : dcLevelOk (nextSeq op k) d = true := by
  obtain ⟨rfl, rfl | rfl | rfl | rfl⟩ := delayAt_some (rowAt_delay row) <;> rfl

/-- After a command frame `DC` is low, and the next position is neither IDLE nor INIT's last row. -/
theorem dcLevelOk_after_command {s : State} {op : Op} {k : Nat} {i : Instr}
    (row : rowAt s op k = some (.wire i)) (part : (Seq.row op k).inParams = false) :
    dcLevelOk (nextSeq op k) .low = true := by
  cases op <;> simp only [rowAt] at row
  · unfold initRow at row; split at row <;> simp_all [dcLevelOk, nextSeq, Op.last, Seq.inParams]
  · unfold setpixelRow at row; split at row <;> simp_all [dcLevelOk, nextSeq, Op.last, Seq.inParams]
  · unfold refreshRow at row; split at row <;> simp_all [dcLevelOk, nextSeq, Op.last, Seq.inParams]

/-- After a data part `DC` is high, and the next position is no data row. -/
theorem dcLevelOk_after_data {op : Op} {k : Nat} (part : (Seq.row op k).inParams = true) :
    dcLevelOk (nextSeq op k) .high = true := by
  rcases inParams_row.1 part with ⟨rfl, rfl | rfl | rfl⟩ | ⟨rfl | rfl, rfl | rfl | rfl⟩ <;> rfl

/-- After the zero-fill `DC` is still high. -/
theorem dcLevelOk_after_zeroFill {s : State} {op : Op} {k : Nat} (row : rowAt s op k = some .zeroFill)
    {d : Line} (h : dcLevelOk (.row op k) d = true) : dcLevelOk (nextSeq op k) d = true := by
  obtain ⟨rfl, rfl⟩ := rowAt_zeroFill row
  obtain rfl : d = .high := by simpa [dcLevelOk, Seq.inParams] using h
  rfl

/-- The next row of an operation asks for the same operands and variant, and IDLE for none. -/
theorem opOk_nextSeq {s : State} {op : Op} {k : Nat} (pos : s.seq = .row op k) (h : opOk s = true) :
    opOk (s.setSeq (nextSeq op k)) = true := by
  unfold nextSeq
  split
  · unfold opOk at h ⊢; rw [pos] at h; cases op <;> exact h
  · rfl

/-! ### What a move keeps -/

namespace Move

variable {s t : State}

theorem cfg_eq (m : Move s t) : t.cfg = s.cfg := by cases m <;> rfl

theorem keeps_legal (m : Move s t) (h : s.seq.legal = true) : t.seq.legal = true := by
  cases m with
  | environment | nothing | answer | fbWrite | fbRead | delayEntry | delayHold => exact h
  | start => simp [Seq.legal]
  | pin | delayPass | command | dataByte | dataBuf | zeroFill => exact nextSeq_legal _ _

theorem keeps_ms_lt (m : Move s t) (h : s.ms < s.cfg.msMod) : t.ms < t.cfg.msMod := by
  cases m with
  | environment =>
    dsimp only
    split
    · exact Nat.mod_lt _ (msMod_pos _)
    · exact h
  | _ => exact h

theorem keeps_t0_lt (m : Move s t) (hms : s.ms < s.cfg.msMod) (h : s.t0 < s.cfg.msMod) :
    t.t0 < t.cfg.msMod := by
  cases m with
  | delayEntry => exact hms
  | _ => exact h

theorem keeps_waitBit (m : Move s t) (h : s.delayOn = true → (delayAt s.cfg s.seq).isSome = true) :
    t.delayOn = true → (delayAt t.cfg t.seq).isSome = true := by
  cases m with
  | environment | nothing | answer | fbWrite | fbRead | delayHold => exact h
  | start _ _ _ idle => intro on; cases idle ▸ h on
  | delayEntry op k n pos row => intro; simp [pos, rowAt_delay row]
  | delayPass => nofun
  | pin op k l pos row | command op k i b pos row | dataByte op k i b pos row
  | dataBuf op k i bs pos row | zeroFill op k pos row =>
    intro on; cases on.symm.trans (delayOn_eq_false (s := s) pos row nofun h)

theorem keeps_resLevelOk (m : Move s t) (h : resLevelOk s.seq s.res = true) :
    resLevelOk t.seq t.res = true := by
  cases m with
  | environment | nothing | answer | fbWrite | fbRead | delayEntry | delayHold => exact h
  | start op _ _ idle => rw [idle] at h; cases op <;> exact h
  | pin op k l pos row => exact resLevelOk_after_pin row
  | delayPass op k n pos row | command op k i b pos row | dataByte op k i b pos row
  | dataBuf op k i bs pos row | zeroFill op k pos row => exact resLevelOk_nextSeq row nofun (pos ▸ h)

theorem keeps_dcLevelOk (m : Move s t) (h : dcLevelOk s.seq s.dc = true) :
    dcLevelOk t.seq t.dc = true := by
  cases m with
  | environment | nothing | answer | fbWrite | fbRead | delayEntry | delayHold => exact h
  | start op => cases op <;> rfl
  | pin op k l pos row => exact dcLevelOk_after_pin row _
  | delayPass op k n pos row => exact dcLevelOk_after_delay row _
  | command op k i b pos row part => exact dcLevelOk_after_command row part
  | dataByte op k i b pos row part | dataBuf op k i bs pos row part => exact dcLevelOk_after_data part
  | zeroFill op k pos row => exact dcLevelOk_after_zeroFill row (pos ▸ h)

theorem keeps_lastRes (m : Move s t) (h : lastRes .u s.trace = s.res) : lastRes .u t.trace = t.res := by
  cases m with
  | environment | nothing | start | answer | fbWrite | fbRead | delayEntry | delayHold | zeroFill => exact h
  | pin | delayPass | command | dataByte | dataBuf => simp [lastRes, h]

theorem keeps_lastDc (m : Move s t) (h : lastDc .u s.trace = s.dc) : lastDc .u t.trace = t.dc := by
  cases m with
  | environment | nothing | start | answer | fbWrite | fbRead | delayEntry | delayHold | zeroFill => exact h
  | pin | delayPass | command | dataByte | dataBuf => simp [lastDc, h, Level.line]

theorem keeps_opOk (m : Move s t) (h : opOk s = true) : opOk t = true := by
  cases m with
  | environment | nothing | fbWrite | fbRead | delayEntry | delayHold => exact h
  | start _ _ _ _ _ _ offered => exact offered
  | answer _ _ _ idle => simp [opOk, idle]
  | pin op k l pos | delayPass op k n pos | command op k i b pos | dataByte op k i b pos
  | dataBuf op k i bs pos | zeroFill op k pos => exact opOk_nextSeq pos h

theorem keeps_fbOk (m : Move s t) (h : fbOk s = true) : fbOk t = true := by
  cases m with
  | fbWrite i v rest _ _ buffered inside =>
    obtain ⟨hwf, hbelow, -⟩ := fbOk_iff.1 h
    exact fbOk_iff.2 ⟨Fb.write_wf hwf, Fb.write_below hbelow inside, .inl buffered⟩
  | zeroFill =>
    cases hb : s.cfg.buffered with
    | true =>
      simp only [fbOk_iff, hb, ↓reduceIte]
      exact ⟨Fb.zeroFilled_wf, rfl, .inl trivial⟩
    | false => simpa [fbOk_iff, hb] using h
  | _ => exact h

theorem keeps_inv (m : Move s t) (h : s.inv = true) : t.inv = true := by
  obtain ⟨hcfg, hseq, hms, ht0, hon, hres, hdc, htres, htdc, hop, hfb⟩ := inv_iff.1 h
  exact inv_iff.2 ⟨m.cfg_eq ▸ hcfg, m.keeps_legal hseq, m.keeps_ms_lt hms, m.keeps_t0_lt hms ht0,
    m.keeps_waitBit hon, m.keeps_resLevelOk hres, m.keeps_dcLevelOk hdc, m.keeps_lastRes htres,
    m.keeps_lastDc htdc, m.keeps_opOk hop, m.keeps_fbOk hfb⟩

end Move

/-- Settles O49: every step is a move, and a move keeps each part of the invariant. -/
theorem invariantIsKept : Obligations.InvariantIsKept :=
  fun _ _ h hstep => (Move.of_step hstep).keeps_inv h

theorem powerUp_inv {cfg : Config} (draw : Nat) (h : cfg.wf = true) : (State.powerUp cfg draw).inv = true :=
  inv_iff.2 ⟨h, rfl, msMod_pos cfg, msMod_pos cfg, nofun, rfl, rfl, rfl, rfl, rfl,
    fbOk_iff.2 ⟨State.powerUp_fb_wf cfg draw, rfl, .inr rfl⟩⟩

theorem powerUp_wellTraced (cfg : Config) (draw : Nat) : WellTraced (State.powerUp cfg draw) :=
  ⟨[], nofun, rfl⟩

theorem default_wf : Config.default.wf = true := by decide

/-- Settles O2: the reset state is the power-up of the default configuration, which is legal. -/
theorem invariantAtPowerUp : Obligations.InvariantAtPowerUp :=
  ⟨powerUp_inv 0 default_wf, powerUp_wellTraced _ 0,
    fun cfg draw h => ⟨powerUp_inv draw h, powerUp_wellTraced cfg draw⟩⟩

end Sys2Proof.Machine
end

section
/-! Who writes each field of the state (10_state.md R21 to R31), and where the position can go: read off the moves. -/

namespace Sys2Proof.Machine

/-- A wire command writes no constant, and neither does a request. -/
theorem exec_cfg {i : Instr} {s t : State} (h : exec i s = .next t) : t.cfg = s.cfg := by
  cases hr : i.isRequest with
  | false => rcases exec_wire_cases hr h with ⟨_, _, rfl⟩ | ⟨_, rfl⟩ | ⟨_, _, rfl⟩ <;> rfl
  | true =>
    rcases exec_request_cases hr h with ⟨-, rfl⟩ | ⟨-, h⟩
    · rfl
    · rcases h with ⟨_, _, _, _, rfl⟩ | ⟨_, _, _, _, _, rfl⟩ | ⟨_, _, _, _, _, rfl⟩ |
        ⟨_, _, _, _, rfl⟩ | ⟨_, _, _, _, rfl⟩ | ⟨_, _, _, _, _, rfl⟩ <;> rfl

/-- Settles O41: no move writes a constant, and no instruction does. -/
theorem configurationIsConstant : Obligations.ConfigurationIsConstant :=
  ⟨fun _ _ h => (Move.of_step h).cfg_eq, fun _ _ _ h => exec_cfg h⟩

/-! ### The position and the host's queue -/

/-- A request presented while busy leaves the state, whatever it is (log entry 30). -/
theorem exec_request_busy {i : Instr} {s : State} (hb : s.busy = true) (hr : i.isRequest = true) :
    exec i s = .next s := by
  cases i <;> simp only [Instr.isRequest, reduceCtorEq] at hr
  case init => exact accept_busy hb
  case setpixel => simp [exec, execSetpixel, hb, accept_busy]
  case refresh => simp [exec, execRefresh, hb, accept_busy]
  case getwidth => exact accept_busy hb
  case getheight => exact accept_busy hb
  case getbuffer => simp [exec, execGetbuffer, hb, accept_busy]

theorem Move.host_of_busy {s t : State} (m : Move s t) (hb : s.busy = true) : t.host = s.host := by
  obtain ⟨op, k, hrow⟩ := busy_eq_true.1 hb
  cases m with
  | start _ _ _ idle | answer _ _ _ idle | fbWrite _ _ _ idle | fbRead _ _ idle =>
    cases hrow.symm.trans idle
  | _ => rfl

/-- Settles O17: a request waits, and only the moves at IDLE take from the host's queue. -/
theorem requestsWaitWhileBusy : Obligations.RequestsWaitWhileBusy :=
  ⟨fun _ _ hb hr => exec_request_busy hb hr, fun _ _ hb h => (Move.of_step h).host_of_busy hb⟩

theorem Move.seq_of_idle {s t : State} (m : Move s t) (hq : s.seq = .idle) :
    t.seq = .idle ∨ ∃ op, t.seq = .row op 0 := by
  cases m with
  | environment | nothing | answer | fbWrite | fbRead | delayEntry | delayHold => exact .inl hq
  | start op => exact .inr ⟨op, rfl⟩
  | pin _ _ _ pos | delayPass _ _ _ pos | command _ _ _ _ pos | dataByte _ _ _ _ pos
  | dataBuf _ _ _ _ pos | zeroFill _ _ pos => cases hq.symm.trans pos

/-- A row's position goes to the next one, but for a turn of the environment and a Delay that is not over. -/
theorem Move.seq_of_row {s t : State} {op : Op} {k : Nat} (m : Move s t) (hq : s.seq = .row op k) :
    t.seq = nextSeq op k ∨
    (t.seq = s.seq ∧ (s.seqTurn = false ∨ ∃ n, delayAt s.cfg (.row op k) = some n)) := by
  cases m with
  | environment turn => exact .inr ⟨rfl, .inl turn⟩
  | nothing idle | start _ _ _ idle | answer _ _ _ idle | fbWrite _ _ _ idle | fbRead _ _ idle =>
    cases hq.symm.trans idle
  | pin _ _ _ pos | delayPass _ _ _ pos | command _ _ _ _ pos | dataByte _ _ _ _ pos
  | dataBuf _ _ _ _ pos | zeroFill _ _ pos => cases hq.symm.trans pos; exact .inl rfl
  | delayEntry _ _ n pos row | delayHold _ _ n pos row =>
    cases hq.symm.trans pos; exact .inr ⟨rfl, .inr ⟨n, rowAt_delay row⟩⟩

/-- Settles O40: the Delay rows are rows 1, 3, 5 and 7 of INIT. -/
theorem positionAdvancesInOrder : Obligations.PositionAdvancesInOrder := by
  intro s t h
  have m := Move.of_step h
  refine ⟨m.seq_of_idle, fun op k hq => ?_⟩
  rcases m.seq_of_row hq with hnext | ⟨hstay, hturn | ⟨n, hn⟩⟩
  · exact .inl hnext
  · exact .inr ⟨hstay, .inl hturn⟩
  · obtain ⟨hop, hk⟩ := delayAt_some hn
    exact .inr ⟨hstay, .inr ⟨hop, by simpa using hk⟩⟩

/-! ### The framebuffer, the lines, the counters, the latches -/

/-- Settles O42: of the moves only the zero-fill of the buffered variant and the host's write change `FB`. -/
theorem framebufferWriters : Obligations.FramebufferWriters := by
  intro s t h
  cases Move.of_step h with
  | fbWrite i v rest idle head buffered inside =>
    exact .inr (.inr ⟨i, v, idle, buffered, inside, by simp [head], rfl⟩)
  | zeroFill op k pos row =>
    obtain ⟨rfl, rfl⟩ := rowAt_zeroFill row
    cases hb : s.cfg.buffered with
    | true => exact .inr (.inl ⟨pos, rfl, rfl⟩)
    | false => exact .inl rfl
  | _ => exact .inl rfl

/-- Settles O43: of the moves only the pin rows write `RES`. -/
theorem resetLineWriters : Obligations.ResetLineWriters := by
  intro s t h
  cases Move.of_step h with
  | pin op k l pos row =>
    obtain ⟨rfl, ⟨rfl, rfl⟩ | ⟨rfl, rfl⟩⟩ := rowAt_pin row
    · exact .inr (.inl ⟨pos, rfl⟩)
    · exact .inr (.inr ⟨pos, rfl⟩)
  | _ => exact .inl rfl

theorem Move.ms_writers {s t : State} (m : Move s t) :
    t.ms = s.ms ∨ (s.nextTurn = .tick ∧ s.tickOn = true ∧ t.ms = (s.ms + 1) % s.cfg.msMod) := by
  cases m with
  | environment =>
    by_cases htick : s.nextTurn = .tick ∧ s.tickOn = true
    · exact .inr ⟨htick.1, htick.2, if_pos htick⟩
    · exact .inl (if_neg htick)
  | _ => exact .inl rfl

theorem Move.tickOn_writers {s t : State} (m : Move s t) :
    t.tickOn = s.tickOn
    ∨ (s.nextTurn = .stopTick ∧ t.tickOn = false) ∨ (s.nextTurn = .startTick ∧ t.tickOn = true) := by
  cases m with
  | environment => cases hturn : s.nextTurn <;> simp
  | _ => exact .inl rfl

theorem Move.t0_writers {s t : State} (m : Move s t) :
    t.t0 = s.t0
    ∨ (s.delayOn = false ∧ t.delayOn = true ∧ t.t0 = s.ms ∧ ∃ k ∈ [1, 3, 5, 7], s.seq = .row .init k) := by
  cases m with
  | delayEntry op k n pos row off =>
    obtain ⟨rfl, hk⟩ := delayAt_some (rowAt_delay row)
    exact .inr ⟨off, rfl, rfl, k, by simpa using hk, pos⟩
  | _ => exact .inl rfl

/-- Settles O44: only the environment's turns write `ms` and `tickOn`, only the entry of a Delay writes `t0`. -/
theorem counterAndWaitLatchWriters : Obligations.CounterAndWaitLatchWriters :=
  fun _ _ h => ⟨(Move.of_step h).ms_writers, (Move.of_step h).tickOn_writers, (Move.of_step h).t0_writers⟩

/-- Settles O45: of the moves only the two that take a request write the latches and `rsp`. -/
theorem latchAndResponseWriters : Obligations.LatchAndResponseWriters := by
  intro s t h
  cases Move.of_step h with
  | start op w rest idle head code =>
    exact .inr ⟨w, idle, by simp [head], rfl, rfl, rfl, .inl ⟨code, rfl⟩⟩
  | answer v w rest idle head value =>
    exact .inr ⟨w, idle, by simp [head], rfl, rfl, rfl, .inr value⟩
  | _ => exact .inl ⟨rfl, rfl, rfl, rfl⟩

/-! ### The trace -/

theorem commandBytes_nodup {cfg : Config} (h : cfg.wf = true) : cfg.commandBytes.Nodup := by
  simp only [Config.wf, Bool.and_eq_true, decide_eq_true_eq] at h
  exact h.2

/-- Of a legal configuration write-memory-continue is none of the emitted bytes. -/
theorem ne_cmdRamwrc_of_emitted {cfg : Config} {b : Byte} (h : cfg.wf = true) (hb : b ∈ cfg.emittedBytes) :
    b ≠ cfg.cmdRamwrc := by
  have hnodup : (cfg.emittedBytes ++ [cfg.cmdRamwrc]).Nodup := commandBytes_nodup h
  rintro rfl
  exact List.disjoint_of_nodup_append hnodup hb (List.mem_singleton.2 rfl)

/-- Settles O46: the events each move appends. -/
theorem stepEmitsOnePrimitive : Obligations.StepEmitsOnePrimitive := by
  intro s t h
  cases Move.of_step h with
  | environment | nothing | start | answer | fbWrite | fbRead | delayEntry | delayHold | zeroFill =>
    exact ⟨[], (List.append_nil _).symm, .inl rfl⟩
  | pin op k l => exact ⟨_, rfl, .inr (.inl ⟨l, rfl⟩)⟩
  | delayPass op k n => exact ⟨_, rfl, .inr (.inr (.inl ⟨n, rfl⟩))⟩
  | command op k i b pos row part emitted =>
    exact ⟨_, rfl, .inr (.inr (.inr (.inl ⟨b, rfl, emitted, fun hwf => ne_cmdRamwrc_of_emitted hwf emitted⟩)))⟩
  | dataByte op k i b => exact ⟨_, rfl, .inr (.inr (.inr (.inr (.inl ⟨b, rfl⟩))))⟩
  | dataBuf op k i bs pos row part nonempty =>
    exact ⟨_, rfl, .inr (.inr (.inr (.inr (.inr ⟨bs, nonempty, rfl⟩))))⟩

end Sys2Proof.Machine
end

section
/-! What a step is on the sequencer's turn and on the tick source's (10_state.md R29, R34, R35). -/

namespace Sys2Proof.Machine

theorem idleStep_nothing {s : State} (h : s.host = []) : idleStep s = .next s := by
  simp [idleStep, h]

theorem idleStep_request {s : State} {w : ReqWord} {rest : List HostAct} {i : Instr}
    (hh : s.host = .request w :: rest) (hd : decodeRequest w = .ok i) :
    idleStep s = mapNext (·.setHost rest) (exec i s) := by
  simp [idleStep, hh, runRequest, hd]

theorem microStep_wire {s : State} {op : Op} {k : Nat} {i : Instr} (h : rowAt s op k = some (.wire i)) :
    microStep op k s = mapNext (·.setSeq (nextSeq op k)) (exec i s) := by
  simp [microStep, h]

theorem step_of_nothing {s : State} (hs : s.seqTurn = true) (hq : s.seq = .idle) (hh : s.host = []) :
    step s = .next s.popTurn := by
  rw [step_of_seqTurn hs, seqStep_idle (by exact hq), idleStep_nothing (by exact hh)]

/-- At power-up no turn is given and no Delay holds, so the sequencer steps, and nothing is presented. -/
theorem step_powerUp (cfg : Config) (draw : Nat) :
    step (State.powerUp cfg draw) = .next (State.powerUp cfg draw) :=
  step_of_nothing (seqTurn_of_not_holding rfl rfl) rfl rfl

/-- Settles O1: what power-up leaves are its fields; without a request a step only uses up the turn. -/
theorem powerUpState : Obligations.PowerUpState :=
  ⟨fun cfg draw => ⟨rfl, rfl, rfl, rfl, rfl, rfl, fun _ => rfl, step_powerUp cfg draw, rfl⟩,
    fun _ hs hq hh => step_of_nothing hs hq hh⟩

/-- Settles O24: at IDLE the sequencer's step honours the head of the queue, a request that decodes. -/
theorem stepRunsDecodedRequest : Obligations.StepRunsDecodedRequest := by
  intro s w rest i hs hq hh hd
  rw [step_of_seqTurn hs, seqStep_idle (by exact hq), idleStep_request (by exact hh) hd]
  rfl

/-- Settles O25: at a row the sequencer's step is the table's micro-step, here a wire command. -/
theorem stepRunsWireCommand : Obligations.StepRunsWireCommand := by
  intro s op k i hs hq hr
  rw [step_of_seqTurn hs, seqStep_at (by exact hq), microStep_wire (by exact hr)]
  rfl

theorem nextTurn_eq_tick {s : State} :
    s.nextTurn = .tick ↔
      s.turns.head? = some .tick ∨ (s.turns = [] ∧ s.holding = true ∧ s.tickOn = true) := by
  cases hts : s.turns with
  | nil => simp [nextTurn_of_nil hts]
  | cons a ts => simp [nextTurn_of_cons hts]

theorem seqTurn_eq_false {s : State} :
    s.seqTurn = false ↔ s.nextTurn = .tick ∨ s.nextTurn = .stopTick ∨ s.nextTurn = .startTick := by
  cases h : s.nextTurn <;> simp [State.seqTurn, h]

theorem step_of_nextTurn {s : State} {a : Turn} (h : s.nextTurn = a) (ha : a ≠ .sequencer) :
    step s = .next (environmentStep a s.popTurn) := by
  rw [step_of_envTurn (by simp [State.seqTurn, h, ha]), h]

/-- Settles O26: the turns that are not the sequencer's are the environment's three. -/
theorem tickIncrementsCounter : Obligations.TickIncrementsCounter := by
  intro s
  refine ⟨nextTurn_eq_tick, seqTurn_eq_false, fun h on => ?_, fun h off => ?_, fun h => ?_, fun h => ?_⟩
  · rw [step_of_nextTurn h nofun, environmentStep_eq]; simp [State.popTurn, State.setTurns, on, Config.msMod]
  · rw [step_of_nextTurn h nofun, environmentStep_eq]; simp [State.popTurn, State.setTurns, off]
  · exact step_of_nextTurn h nofun
  · exact step_of_nextTurn h nofun

end Sys2Proof.Machine
end

section
/-! What the wire has programmed and what a transport call puts on its port (10_state.md R32, R34). -/

namespace Sys2Proof.Machine

/-- A command frame ends the message before it. -/
theorem splitMessages_append_cmd (fs : List Frame) (b : Byte) (gs : List Frame) :
    splitMessages (fs ++ .cmd b :: gs) =
      ((splitMessages fs).1, (splitMessages fs).2 ++ (splitMessages (.cmd b :: gs)).2) := by
  induction fs with
  | nil => rfl
  | cons f fs ih =>
    obtain ⟨d, a⟩ := f
    cases d <;> simp [splitMessages, ih]

/-- The last message with the command byte is in the later part, or else in the earlier one. -/
theorem lastParams_append (cmd : Byte) (as bs : List Message) :
    lastParams cmd (as ++ bs) = (lastParams cmd bs).or (lastParams cmd as) := by
  induction as with
  | nil => simp [lastParams]
  | cons m ms ih =>
    simp only [List.cons_append, lastParams, ih]
    cases lastParams cmd bs <;> rfl

@[simp] theorem windowOf_windowBytes (a b : Coord) : windowOf (windowBytes a b) = some (a, b) := by
  simp [windowBytes, be16, windowOf]

/-- The frames of a `SetWindow` are its two messages. -/
theorem framesFrom_windowEvents (d : Line) (cfg : Config) (cs ce rs re : Coord) :
    framesFrom d (windowEvents cfg cs ce rs re) =
      messageFrames cfg.cmdCaset (windowBytes cs ce) ++ messageFrames cfg.cmdRaset (windowBytes rs re) := rfl

/-- A `SetWindow` appends a column message and a row message to the messages of a trace. -/
theorem messages_append_windowEvents (cfg : Config) (es : List Event) (cs ce rs re : Coord) :
    messages (es ++ windowEvents cfg cs ce rs re) =
      messages es ++ [⟨cfg.cmdCaset, windowBytes cs ce⟩, ⟨cfg.cmdRaset, windowBytes rs re⟩] := by
  simp only [messages, frames, framesFrom_append, framesFrom_windowEvents, messageFrames, List.cons_append,
    splitMessages_append_cmd]
  rfl

theorem cmdCaset_ne_cmdRaset {cfg : Config} (h : cfg.wf = true) : cfg.cmdCaset ≠ cfg.cmdRaset := by
  have hnodup := commandBytes_nodup h
  simp only [Config.commandBytes, List.nodup_cons, List.mem_cons, not_or] at hnodup
  obtain ⟨-, -, -, -, ⟨hne, -⟩, -⟩ := hnodup
  exact hne

/-- Settles O52: the last column message and the last row message of the trace are those of the `SetWindow`. -/
theorem windowIsProgrammed : Obligations.WindowIsProgrammed := by
  intro cfg es cs ce rs re h
  have hne := cmdCaset_ne_cmdRaset h
  constructor
  · simp [columnWindow, messages_append_windowEvents, lastParams_append, lastParams, hne.symm]
  · simp [rowWindow, messages_append_windowEvents, lastParams_append, lastParams]

theorem map_byte_callBeats (first : Bool) (bs : List Byte) : (callBeats first bs).map Beat.byte = bs := by
  induction first, bs using callBeats.induct with
  | case1 => rfl
  | case2 => rfl
  | case3 first b bs hne ih => simp [callBeats, ih]

/-- Of the beats of a call only the first carries the mark the call begins with, and only the last is marked last. -/
theorem marks_of_callBeats {first : Bool} {bs : List Byte} {i : Nat} {b : Beat}
    (h : (callBeats first bs)[i]? = some b) :
    b.first = (first && decide (i = 0)) ∧ b.last = decide (i + 1 = bs.length) := by
  induction first, bs using callBeats.induct generalizing i with
  | case1 => simp [callBeats] at h
  | case2 first a =>
    cases i with
    | zero => cases h; simp
    | succ i => simp [callBeats] at h
  | case3 first a bs hne ih =>
    simp only [callBeats] at h
    cases i with
    | zero => cases h; simpa using hne
    | succ i => simpa using ih h

/-- Settles O54: the call of a buffer write begins with the first mark set. -/
theorem beatsOfATransportCall : Obligations.BeatsOfATransportCall :=
  fun bs _ => ⟨map_byte_callBeats true bs, fun _ _ h => by simpa using marks_of_callBeats h⟩

end Sys2Proof.Machine
end

section
/-! The trace is whole operations, one after another (20_memory.md R63): what a row appends when it is passed, how the
rows of a table add up to the events of its operation, and that every step keeps the shape of the trace. -/

namespace Sys2Proof.Machine

/-! ### What a row appends -/

/-- The events of one part of a wire command: its data part where `data` says so and the command has one, its command
frame otherwise (45_wire_commands.md R200 to R207). Nothing for a request and for write-memory-continue, which no row
holds. -/
def wireEvents (cfg : Config) (data : Bool) : Instr → List Event
  | .swreset => [.dc .low, .tx cfg.cmdSwreset]
  | .slpout => [.dc .low, .tx cfg.cmdSlpout]
  | .invon => [.dc .low, .tx cfg.cmdInvon]
  | .dispon => [.dc .low, .tx cfg.cmdDispon]
  | .caset a b => if data then [.dc .high, .txb (windowBytes a b)] else [.dc .low, .tx cfg.cmdCaset]
  | .raset a b => if data then [.dc .high, .txb (windowBytes a b)] else [.dc .low, .tx cfg.cmdRaset]
  | .ramwr p ps => if data then [.dc .high, .txb (pixelBytes (p :: ps))] else [.dc .low, .tx cfg.cmdRamwr]
  | .colmod f => if data then [.dc .high, .tx f] else [.dc .low, .tx cfg.cmdColmod]
  | _ => []

/-- The events a row has appended when the sequencer leaves it, `data` saying whether it is a data row. -/
def MicroStep.events (cfg : Config) (data : Bool) : MicroStep → List Event
  | .pin l => [.res l]
  | .delay n => [.wait n]
  | .wire i => wireEvents cfg data i
  | .zeroFill => []

/-- A wire command appends its part's events and drives `DC` as they say; nothing else changes. -/
theorem exec_wire_eq {i : Instr} {s t : State} (hr : i.isRequest = false) (h : exec i s = .next t) :
    t = { s with
      dc := lastDc s.dc (wireEvents s.cfg s.seq.inParams i)
      trace := s.trace ++ wireEvents s.cfg s.seq.inParams i } := by
  cases i with
  | init | setpixel | refresh | getwidth | getheight | getbuffer => cases hr
  | swreset | slpout | invon | dispon =>
    obtain rfl := Host.Outcome.next.inj h
    exact writeCommand_eq _ _
  | caset | raset | ramwr =>
    cases hp : s.seq.inParams with
    | false =>
      obtain rfl := Host.Outcome.next.inj ((sendPart_command hp).symm.trans h)
      exact writeCommand_eq _ _
    | true =>
      obtain rfl := Host.Outcome.next.inj ((sendPart_params hp).symm.trans h)
      exact writeDataBuf_eq _ _
  | colmod =>
    cases hp : s.seq.inParams with
    | false =>
      obtain rfl := Host.Outcome.next.inj ((sendPart_command hp).symm.trans h)
      exact writeCommand_eq _ _
    | true =>
      obtain rfl := Host.Outcome.next.inj ((sendPart_params hp).symm.trans h)
      exact writeData8_eq _ _
  | ramwrc => cases h

/-! ### The operation a row belongs to -/

/-- The completed operation that an operation in progress becomes: the latches and the framebuffer give its operands. -/
def State.doneAs (s : State) : Op → Done
  | .init => .init
  | .setpixel => .setpixel s.x s.y s.c
  | .refresh => .refresh (s.fb.pixels s.cfg.size)

theorem partialEvents_idle {s : State} (h : s.seq = .idle) : s.partialEvents = [] := by
  simp [State.partialEvents, h]

theorem partialEvents_row {s : State} {op : Op} {k : Nat} (h : s.seq = .row op k) :
    s.partialEvents = ((s.doneAs op).events s.cfg).take (eventsBefore op k) := by
  cases op <;> simp [State.partialEvents, h, State.doneAs, Done.events]

/-- An operation that is offered is one that may stand in the trace when it is completed. -/
theorem doneAs_ok {s : State} {op : Op} {k : Nat} (pos : s.seq = .row op k) (h : opOk s = true) :
    (s.doneAs op).ok s.cfg = true := by
  cases op with
  | init => rfl
  | setpixel => simpa [opOk, pos, State.doneAs, Done.ok] using h
  | refresh => simpa [opOk, pos, State.doneAs, Done.ok, Fb.pixels] using h

/-! ### The rows add up to the operation -/

theorem size_pos {cfg : Config} (h : cfg.wf = true) : 0 < cfg.size := by
  simp only [Config.wf, Bool.and_eq_true, decide_eq_true_eq] at h
  obtain ⟨⟨⟨⟨⟨⟨⟨⟨-, hw⟩, hh⟩, -⟩, -⟩, -⟩, -⟩, -⟩, -⟩ := h
  exact Nat.mul_pos (by bv_omega) (by bv_omega)

/-- The pixels that REFRESH's row streams, first and rest, are the whole framebuffer. -/
theorem read_zero_cons_restPixels (fb : Fb) {n : Nat} (h : 0 < n) :
    fb.read 0 :: fb.restPixels n = fb.pixels n := by
  obtain ⟨m, rfl⟩ := Nat.exists_eq_succ_of_ne_zero h.ne'
  simp [Fb.restPixels, Fb.pixels, List.range_eq_range', List.range'_succ]

/-- What an operation has appended before the next row is what it has before this row, and this row's events. -/
theorem take_eventsBefore_succ {s : State} {op : Op} {k : Nat} {m : MicroStep} (hcfg : s.cfg.wf = true)
    (row : rowAt s op k = some m) :
    ((s.doneAs op).events s.cfg).take (eventsBefore op (k + 1)) =
      ((s.doneAs op).events s.cfg).take (eventsBefore op k)
        ++ m.events s.cfg (Seq.row op k).inParams := by
  cases op <;> simp only [rowAt] at row
  case init => unfold initRow at row; split at row <;> cases row <;> rfl
  case setpixel => unfold setpixelRow at row; split at row <;> cases row <;> rfl
  case refresh =>
    simp only [State.doneAs, ← read_zero_cons_restPixels s.fb (size_pos hcfg)]
    unfold refreshRow at row; split at row <;> cases row <;> rfl

/-- Before the row after the last one an operation has appended all its events. -/
theorem take_eventsBefore_last (s : State) (op : Op) :
    ((s.doneAs op).events s.cfg).take (eventsBefore op (op.last + 1)) = (s.doneAs op).events s.cfg := by
  cases op <;> rfl

/-! ### What a micro-step appends -/

/-- A micro-step that answers a next state stays at a Delay's row and appends nothing, or leaves the row with the row's
events appended, the operation being the same one. -/
theorem microStep_appends {op : Op} {k : Nat} {s t : State} (pos : s.seq = .row op k)
    (h : microStep op k s = .next t) :
    (t.seq = s.seq ∧ t.cfg = s.cfg ∧ t.doneAs op = s.doneAs op ∧ t.trace = s.trace) ∨
    ∃ m, rowAt s op k = some m ∧ t.seq = nextSeq op k ∧ t.cfg = s.cfg ∧ t.doneAs op = s.doneAs op ∧
      t.trace = s.trace ++ m.events s.cfg (Seq.row op k).inParams := by
  rcases microStep_cases h with ⟨l, row, rfl⟩ | ⟨n, row, rfl⟩ | ⟨i, u, row, hx, rfl⟩ | ⟨row, rfl⟩
  · exact .inr ⟨_, row, rfl, rfl, rfl, rfl⟩
  · cases hd : s.delayOn with
    | false => rw [delayStep_entry hd]; exact .inl ⟨rfl, rfl, rfl, rfl⟩
    | true =>
      cases hw : s.waitOver n with
      | false => rw [delayStep_hold hd hw]; exact .inl ⟨rfl, rfl, rfl, rfl⟩
      | true => rw [delayStep_pass hd hw]; exact .inr ⟨_, row, rfl, rfl, rfl, rfl⟩
  · rw [exec_wire_eq (rowAt_wire row) hx, pos]
    exact .inr ⟨_, row, rfl, rfl, rfl, rfl⟩
  · obtain ⟨rfl, rfl⟩ := rowAt_zeroFill row
    rw [zeroFill_eq]
    exact .inr ⟨_, row, rfl, rfl, rfl, (List.append_nil _).symm⟩

/-! ### Every step keeps the shape of the trace -/

namespace WellTraced

variable {s t : State}

/-- The shape of the trace is a matter of the trace, the constants and the events of the operation in progress. -/
theorem of_same (hs : WellTraced s) (hcfg : t.cfg = s.cfg) (htrace : t.trace = s.trace)
    (hpart : t.partialEvents = s.partialEvents) : WellTraced t := by
  obtain ⟨ops, hok, heq⟩ := hs
  exact ⟨ops, hcfg ▸ hok, by rw [htrace, hcfg, hpart, heq]⟩

/-- Passing a row that is not the last takes the operation in progress one row on. -/
theorem of_row {op : Op} {k : Nat} {m : MicroStep} (hs : WellTraced s) (hwf : s.cfg.wf = true)
    (pos : s.seq = .row op k) (row : rowAt s op k = some m) (hq : t.seq = .row op (k + 1))
    (hcfg : t.cfg = s.cfg) (hdone : t.doneAs op = s.doneAs op)
    (htrace : t.trace = s.trace ++ m.events s.cfg (Seq.row op k).inParams) : WellTraced t := by
  obtain ⟨ops, hok, heq⟩ := hs
  refine ⟨ops, hcfg ▸ hok, ?_⟩
  rw [htrace, heq, partialEvents_row pos, partialEvents_row hq, hcfg, hdone, List.append_assoc,
    take_eventsBefore_succ hwf row]

/-- Passing the last row completes the operation in progress. -/
theorem of_last {op : Op} {m : MicroStep} (hs : WellTraced s) (hwf : s.cfg.wf = true)
    (hop : opOk s = true) (pos : s.seq = .row op op.last) (row : rowAt s op op.last = some m)
    (hq : t.seq = .idle) (hcfg : t.cfg = s.cfg)
    (htrace : t.trace = s.trace ++ m.events s.cfg (Seq.row op op.last).inParams) : WellTraced t := by
  obtain ⟨ops, hok, heq⟩ := hs
  refine ⟨ops ++ [s.doneAs op], ?_, ?_⟩
  · rw [hcfg]
    simpa [or_imp, forall_and] using ⟨hok, doneAs_ok pos hop⟩
  · rw [htrace, heq, partialEvents_row pos, partialEvents_idle hq, hcfg, List.append_assoc,
      ← take_eventsBefore_succ hwf row, take_eventsBefore_last]
    simp

theorem of_microStep {op : Op} {k : Nat} (hs : WellTraced s) (hinv : s.inv = true)
    (pos : s.seq = .row op k) (h : microStep op k s = .next t) : WellTraced t := by
  obtain ⟨hwf, hlegal, -, -, -, -, -, -, -, hop, -⟩ := inv_iff.1 hinv
  have hk : k ≤ op.last := by simpa [pos, Seq.legal] using hlegal
  rcases microStep_appends pos h with ⟨hq, hcfg, hdone, htrace⟩ | ⟨m, row, hq, hcfg, hdone, htrace⟩
  · exact hs.of_same hcfg htrace (by rw [partialEvents_row pos, partialEvents_row (hq.trans pos), hcfg, hdone])
  · rcases hk.lt_or_eq with hlt | rfl
    · exact hs.of_row hwf pos row (hq.trans (if_pos hlt)) hcfg hdone htrace
    · exact hs.of_last hwf hop pos row (hq.trans (if_neg (lt_irrefl _))) hcfg htrace

end WellTraced

/-- A move at IDLE appends nothing. -/
theorem Move.trace_of_idle {s t : State} (m : Move s t) (hq : s.seq = .idle) : t.trace = s.trace := by
  cases m with
  | environment | nothing | start | answer | fbWrite | fbRead | delayEntry | delayHold | zeroFill => rfl
  | pin _ _ _ pos | delayPass _ _ _ pos | command _ _ _ _ pos | dataByte _ _ _ _ pos
  | dataBuf _ _ _ _ pos => cases hq.symm.trans pos

/-- After a move at IDLE the operation in progress, if there is one, has appended nothing. -/
theorem Move.partialEvents_of_idle {s t : State} (m : Move s t) (hq : s.seq = .idle) :
    t.partialEvents = [] := by
  rcases m.seq_of_idle hq with hidle | ⟨op, hrow⟩
  · exact partialEvents_idle hidle
  · rw [partialEvents_row hrow]; cases op <;> rfl

/-- Settles O50: a turn of the environment and a step at IDLE append nothing, and a micro-step appends the events of the
row it leaves, which are the next ones of the operation in progress. -/
theorem traceIsWholeOperations : Obligations.TraceIsWholeOperations := by
  intro s t hinv hs h
  rcases step_cases h with ⟨-, rfl⟩ | ⟨-, hq, h⟩ | ⟨-, op, k, hq, h⟩
  · rw [environmentStep_eq]; exact hs.of_same rfl rfl rfl
  · have m := Move.of_idleStep hq h
    exact hs.of_same m.cfg_eq (m.trace_of_idle hq)
      ((m.partialEvents_of_idle hq).trans (partialEvents_idle hq).symm)
  · exact WellTraced.of_microStep (s := s.popTurn) hs hinv hq h

end Sys2Proof.Machine
end

section
/-! The framebuffer as data (20_memory.md R51; log entry 7): what a read gives after a write, when two framebuffers in
canonical form are the same, and the row-major index of a pixel. -/

namespace Sys2Proof.Machine

/-! ### Reading after a write -/

theorem Fb.wf_iff {fb : Fb} :
    fb.wf = true ↔
      risingFrom 0 fb.cells = true ∧ ∀ cell ∈ fb.cells, fb.background.value ≠ some cell.2 := by
  simp [Fb.wf]

/-- Settles O55: a value equal to the background's is unlisted, and its index reads as the background; any other value
is listed. -/
theorem readAfterWrite : Obligations.ReadAfterWrite := by
  intro fb i j v h
  obtain ⟨hrising, -⟩ := Fb.wf_iff.1 h
  unfold Fb.write
  split
  case isTrue hv =>
    by_cases hj : j = i
    · subst hj
      simp [Fb.read, cellAt_eraseCell_self hrising, Background.read_of_value hv]
    · simp [Fb.read, cellAt_eraseCell_ne hj, hj]
  case isFalse =>
    by_cases hj : j = i
    · simp [Fb.read, cellAt_insertCell, hj]
    · simp [Fb.read, cellAt_insertCell, hj, Ne.symm hj]

/-! ### The canonical form -/

theorem mem_of_cellAt {i : Nat} {v : Color} {cs : List (Nat × Color)} (h : cellAt i cs = some v) :
    (i, v) ∈ cs := by
  induction cs with
  | nil => cases h
  | cons a cs ih =>
    obtain ⟨j, w⟩ := a
    simp only [cellAt] at h
    split at h
    case isTrue hj => subst hj; cases h; exact List.mem_cons_self
    case isFalse => exact List.mem_cons_of_mem _ (ih h)

/-- Rising lists that list alike are the same. -/
theorem eq_of_cellAt_eq {as bs : List (Nat × Color)} {la lb : Nat} (ha : risingFrom la as = true)
    (hb : risingFrom lb bs = true) (h : ∀ k, cellAt k as = cellAt k bs) : as = bs := by
  induction as generalizing la lb bs with
  | nil =>
    cases bs with
    | nil => rfl
    | cons b bs => simpa [cellAt] using h b.1
  | cons a as ih =>
    obtain ⟨i, v⟩ := a
    cases bs with
    | nil => simpa [cellAt] using h i
    | cons b bs =>
      obtain ⟨j, w⟩ := b
      simp only [risingFrom, Bool.and_eq_true, decide_eq_true_eq] at ha hb
      obtain ⟨-, ha⟩ := ha
      obtain ⟨-, hb⟩ := hb
      have hij : i = j := by
        rcases lt_trichotomy i j with hlt | heq | hgt
        · simpa [cellAt, hlt.ne', cellAt_eq_none_of_rising hb (hlt.trans j.lt_succ_self)] using h i
        · exact heq
        · simpa [cellAt, hgt.ne', cellAt_eq_none_of_rising ha (hgt.trans i.lt_succ_self)] using h j
      subst hij
      have hvw : v = w := by simpa [cellAt] using h i
      subst hvw
      have htail : ∀ k, cellAt k as = cellAt k bs := by
        intro k
        by_cases hk : i = k
        · subst hk
          rw [cellAt_eq_none_of_rising ha i.lt_succ_self, cellAt_eq_none_of_rising hb i.lt_succ_self]
        · simpa [cellAt, hk] using h k
      rw [ih ha hb htail]

/-- In a canonical zero-filled framebuffer what is listed for an index is the value read, unless that is 0. -/
theorem cellAt_of_read {fb : Fb} (h : fb.wf = true) (hz : fb.background = .zero) (i : Nat) :
    cellAt i fb.cells = if fb.read i = 0 then none else some (fb.read i) := by
  obtain ⟨-, hlisted⟩ := Fb.wf_iff.1 h
  cases hc : cellAt i fb.cells with
  | none => simp [Fb.read, hc, hz, Background.read]
  | some v =>
    have hread : fb.read i = v := by simp [Fb.read, hc]
    have hv : v ≠ 0 := by
      rintro rfl
      exact hlisted _ (mem_of_cellAt hc) (by simp [hz, Background.value])
    rw [hread, if_neg hv]

/-- Settles O56: what is read says what is listed, and what is listed says what the rising list is. -/
theorem canonicalFormIsUnique : Obligations.CanonicalFormIsUnique := by
  intro a b ha hb hza hzb hread
  have hcells : a.cells = b.cells :=
    eq_of_cellAt_eq (Fb.wf_iff.1 ha).1 (Fb.wf_iff.1 hb).1
      (fun k => by rw [cellAt_of_read ha hza, cellAt_of_read hb hzb, hread])
  exact congrArg₂ Fb.mk (hza.trans hzb.symm) hcells

/-! ### The row-major index -/

theorem fbIndex_lt_size {cfg : Config} {x y : Coord} (hx : x.toNat < cfg.width.toNat)
    (hy : y.toNat < cfg.height.toNat) : fbIndex cfg x y < cfg.width.toNat * cfg.height.toNat := by
  rw [fbIndex, Nat.mul_comm y.toNat, Nat.mul_comm cfg.width.toNat cfg.height.toNat]
  exact Nat.mul_add_lt_mul_of_lt_of_lt hy hx

/-- The column is the remainder of the index by the width. -/
theorem fbIndex_mod_width {cfg : Config} {x y : Coord} (hx : x.toNat < cfg.width.toNat) :
    fbIndex cfg x y % cfg.width.toNat = x.toNat :=
  Nat.mul_add_mod_of_lt hx

/-- The row is the quotient of the index by the width. -/
theorem fbIndex_div_width {cfg : Config} {x y : Coord} (hx : x.toNat < cfg.width.toNat) :
    fbIndex cfg x y / cfg.width.toNat = y.toNat := by
  rw [fbIndex, Nat.mul_comm, Nat.mul_add_div (Nat.zero_lt_of_lt hx), Nat.div_eq_of_lt hx, Nat.add_zero]

/-- Settles O57: an index gives back its column and its row. -/
theorem rowMajorIndexIsInjective : Obligations.RowMajorIndexIsInjective := by
  intro cfg x y x' y' hx hy hx' _
  refine ⟨rfl, fbIndex_lt_size hx hy, fun h => ⟨BitVec.eq_of_toNat_eq ?_, BitVec.eq_of_toNat_eq ?_⟩⟩
  · rw [← fbIndex_mod_width hx, h, fbIndex_mod_width hx']
  · rw [← fbIndex_div_width hx, h, fbIndex_div_width hx']

end Sys2Proof.Machine
end

section
/-! A buffer write and the single-byte writes of its bytes are the same on the wire (20_memory.md R58;
00_scope.md R10). -/

namespace Sys2Proof.Machine

/-- Traces that agree from every level and frame count on are wire-equivalent behind any common part. -/
theorem wireEquiv_of_suffix {a b : List Event} (before : List Event)
    (hframes : ∀ d, framesFrom d a = framesFrom d b) (hres : resEvents a = resEvents b)
    (hwaits : ∀ n, waitMarks n a = waitMarks n b) : wireEquiv (before ++ a) (before ++ b) = true := by
  simp [wireEquiv, frames, hframes, hres, hwaits, waitMarks_append 0 .u before]

theorem framesFrom_txb (d : Line) (bs : List Byte) (after : List Event) :
    framesFrom d (.txb bs :: after) = framesFrom d (bs.map .tx ++ after) := by
  induction bs with
  | nil => rfl
  | cons b bs ih => simpa [framesFrom] using ih

theorem resEvents_txb (bs : List Byte) (after : List Event) :
    resEvents (.txb bs :: after) = resEvents (bs.map .tx ++ after) := by
  induction bs with
  | nil => rfl
  | cons b bs ih => exact ih

theorem waitMarks_txb (n : Nat) (bs : List Byte) (after : List Event) :
    waitMarks n (.txb bs :: after) = waitMarks n (bs.map .tx ++ after) := by
  induction bs generalizing n with
  | nil => rfl
  | cons b bs ih =>
    calc waitMarks n (.txb (b :: bs) :: after)
        = waitMarks (n + 1) (.txb bs :: after) := by simp only [waitMarks, List.length_cons]; congr 1; omega
      _ = waitMarks (n + 1) (bs.map .tx ++ after) := ih (n + 1)

/-- Settles O53: the three readings of wire equivalence agree from the write on. -/
theorem bufferWriteEqualsByteWrites : Obligations.BufferWriteEqualsByteWrites :=
  fun before after bs => wireEquiv_of_suffix before
    (fun d => framesFrom_txb d bs after) (resEvents_txb bs after) (fun n => waitMarks_txb n bs after)

end Sys2Proof.Machine
end

section
/-! The encoder and the decoder undo each other (30_encoding.md R82 to R91): the request word by its four fields, a wire
message by its command byte and the format of its parameter bytes. -/

namespace Sys2Proof

/-! ### Parameter formats: the bytes a format takes, and what they stand for -/

theorem decodeW0_eq_ok {b : Byte} {i j : Instr} {bs : List Byte} :
    decodeW0 b i bs = .ok j ↔ bs = [] ∧ j = i := by
  cases bs <;> simp [decodeW0, eq_comm]

theorem decodeW1_eq_ok {b : Byte} {i : Byte → Instr} {j : Instr} {bs : List Byte} :
    decodeW1 b i bs = .ok j ↔ ∃ p, bs = [p] ∧ j = i p := by
  unfold decodeW1
  split
  case h_1 p => simp [eq_comm]
  case h_2 other => simpa using fun p hp => absurd hp (other p)

theorem decodeW4_eq_ok {b : Byte} {i : Coord → Coord → Instr} {j : Instr} {bs : List Byte} :
    decodeW4 b i bs = .ok j ↔ ∃ start stop, bs = windowBytes start stop ∧ j = i start stop := by
  constructor
  · intro h
    unfold decodeW4 at h
    split at h
    case h_1 p0 p1 p2 p3 =>
      exact ⟨ofBytes p0 p1, ofBytes p2 p3, by simp [windowBytes], by simpa [eq_comm] using h⟩
    case h_2 => cases h
  · rintro ⟨start, stop, rfl, rfl⟩
    simp [windowBytes, be16, decodeW4]

theorem decodeWP_eq_ok {b : Byte} {i : Color → List Color → Instr} {j : Instr} {bs : List Byte} :
    decodeWP b i bs = .ok j ↔ ∃ p ps, bs = pixelBytes (p :: ps) ∧ j = i p ps := by
  constructor
  · intro h
    unfold decodeWP at h
    split at h
    case h_1 p ps hp => exact ⟨p, ps, (pixelBytes_of_pixelsOf hp).symm, by simpa [eq_comm] using h⟩
    case h_2 => cases h
  · rintro ⟨p, ps, rfl, rfl⟩
    simp [decodeWP]

/-! ### The command byte -/

/-- Where the nine command bytes differ, each selects the format of its own row (30_encoding.md R82, R87). -/
theorem decodeCommand_of_nodup {cfg : Config} (h : cfg.commandBytes.Nodup) (bs : List Byte) :
    decodeCommand cfg cfg.cmdSwreset bs = decodeW0 cfg.cmdSwreset .swreset bs
    ∧ decodeCommand cfg cfg.cmdSlpout bs = decodeW0 cfg.cmdSlpout .slpout bs
    ∧ decodeCommand cfg cfg.cmdInvon bs = decodeW0 cfg.cmdInvon .invon bs
    ∧ decodeCommand cfg cfg.cmdDispon bs = decodeW0 cfg.cmdDispon .dispon bs
    ∧ decodeCommand cfg cfg.cmdCaset bs = decodeW4 cfg.cmdCaset .caset bs
    ∧ decodeCommand cfg cfg.cmdRaset bs = decodeW4 cfg.cmdRaset .raset bs
    ∧ decodeCommand cfg cfg.cmdRamwr bs = decodeWP cfg.cmdRamwr .ramwr bs
    ∧ decodeCommand cfg cfg.cmdColmod bs = decodeW1 cfg.cmdColmod .colmod bs
    ∧ decodeCommand cfg cfg.cmdRamwrc bs = decodeWP cfg.cmdRamwrc .ramwrc bs := by
  simp only [Config.commandBytes, List.nodup_cons, List.mem_cons, not_or] at h
  simp [decodeCommand, h, Ne.symm]

/-- The wire command that a command byte and its parameter bytes name is encoded by them. -/
theorem encode_of_decodeCommand {cfg : Config} {b : Byte} {bs : List Byte} {i : Instr}
    (h : decodeCommand cfg b bs = .ok i) : encode cfg i = .message (messageFrames b bs) := by
  unfold decodeCommand at h
  split_ifs at h <;> subst b
  iterate 4 case pos => obtain ⟨rfl, rfl⟩ := decodeW0_eq_ok.1 h; rfl
  iterate 2 case pos => obtain ⟨start, stop, rfl, rfl⟩ := decodeW4_eq_ok.1 h; rfl
  case pos => obtain ⟨p, ps, rfl, rfl⟩ := decodeWP_eq_ok.1 h; rfl
  case pos => obtain ⟨f, rfl, rfl⟩ := decodeW1_eq_ok.1 h; rfl
  case pos => obtain ⟨p, ps, rfl, rfl⟩ := decodeWP_eq_ok.1 h; rfl

/-- Frames that decode are a command frame and data frames, and nothing else. -/
theorem decodeMessage_eq_ok {cfg : Config} {fs : List Frame} {i : Instr} :
    decodeMessage cfg fs = .ok i ↔ ∃ b bs, fs = messageFrames b bs ∧ decodeCommand cfg b bs = .ok i := by
  constructor
  · intro h
    unfold decodeMessage at h
    split at h
    case h_1 => cases h
    case h_2 f fs =>
      obtain ⟨d, b⟩ := f
      cases d with
      | u | high => cases h
      | low =>
        cases hbs : dataBytes fs with
        | none => simp [hbs] at h
        | some bs =>
          exact ⟨b, bs, by simp [messageFrames, Frame.cmd, map_data_of_dataBytes hbs], by simpa [hbs] using h⟩
  · rintro ⟨b, bs, rfl, h⟩
    rwa [decodeMessage_messageFrames]

/-! ### The round trips -/

/-- A request word gives back its opcode, which says the request, and its operand fields. -/
theorem decode_encode_of_request {cfg : Config} {i : Instr} (h : i.isRequest = true) :
    decode cfg (encode cfg i) = .ok i := by
  cases i with
  | init | setpixel | refresh | getwidth | getheight | getbuffer => simp [encode, decode, decodeRequest]
  | swreset | slpout | invon | dispon | caset | raset | ramwr | colmod | ramwrc => cases h

/-- A wire message gives back its command byte, which says the format, and the format gives back the parameters. -/
theorem decode_encode_of_wire {cfg : Config} {i : Instr} (hwf : cfg.wf = true) (h : i.isRequest = false) :
    decode cfg (encode cfg i) = .ok i := by
  have select := decodeCommand_of_nodup (Machine.commandBytes_nodup hwf)
  cases i with
  | init | setpixel | refresh | getwidth | getheight | getbuffer => cases h
  | swreset | slpout | invon | dispon => simp [encode, decode, select, decodeW0_eq_ok]
  | caset | raset => simp [encode, decode, select, decodeW4_eq_ok]
  | ramwr | ramwrc => simp [encode, decode, select, decodeWP_eq_ok]
  | colmod => simp [encode, decode, select, decodeW1_eq_ok]

/-- Settles O3: a legal configuration has nine different command bytes, so a message's command byte says its format. -/
theorem decodeAfterEncode : Obligations.DecodeAfterEncode := by
  intro cfg i hwf
  cases h : i.isRequest with
  | true => exact decode_encode_of_request h
  | false => exact decode_encode_of_wire hwf h

/-- The request that a word decodes to is encoded by that word: a word is its four fields. -/
theorem encode_of_decodeRequest (cfg : Config) {w : ReqWord} {i : Instr} (h : decodeRequest w = .ok i) :
    encode cfg i = .request w := by
  obtain ⟨-, hcode⟩ := Machine.decodeRequest_cases h
  rcases hcode with ⟨op, rfl⟩ | ⟨op, rfl⟩ | ⟨op, rfl⟩ | ⟨op, rfl⟩ | ⟨op, rfl⟩ | ⟨op, rfl⟩ <;>
    exact congrArg Code.request (op ▸ reqWord_fields w)

/-- Settles O4: by the kind of encoding, a word by its fields and frames by their command byte and parameter bytes. -/
theorem encodeAfterDecode : Obligations.EncodeAfterDecode := by
  intro cfg code i h
  cases code with
  | request w => exact encode_of_decodeRequest cfg h
  | message fs =>
    obtain ⟨b, bs, rfl, hd⟩ := decodeMessage_eq_ok.1 h
    exact encode_of_decodeCommand hd

/-- Settles O5: the words and messages are closed terms, and the decoder runs on each. -/
theorem specWordsDecode : Obligations.SpecWordsDecode := by
  unfold Obligations.SpecWordsDecode
  decide

end Sys2Proof
end

section
/-! Request opcodes that are not offered are refused at IDLE (30_encoding.md R91). -/

namespace Sys2Proof.Machine

theorem idleStep_request_eq {s : State} {w : ReqWord} {rest : List HostAct} (h : s.host = .request w :: rest) :
    idleStep s = mapNext (·.setHost rest) (runRequest w s) := by
  simp [idleStep, h]

/-- Opcodes 0 and 7 decode to no request. -/
theorem runRequest_reserved {w : ReqWord} (s : State) (h : reqOp w = 0 ∨ reqOp w = 7) :
    runRequest w s = .refused (.reservedRequest (reqOp w)) := by
  rcases h with h | h <;> simp [runRequest, decodeRequest, h]

/-- Opcodes 3 and 6 decode to the two requests that ask for a framebuffer. -/
theorem runRequest_bufferedOnly {s : State} {w : ReqWord} (hq : s.seq = .idle) (hb : s.cfg.buffered = false)
    (h : reqOp w = 3 ∨ reqOp w = 6) : runRequest w s = .refused .bufferedOnly := by
  rcases h with h | h
  · simp [runRequest, decodeRequest, h, exec, execRefresh_idle hq, hb]
  · simp [runRequest, decodeRequest, h, exec, execGetbuffer_idle hq, hb]

/-- Settles O18: the step at IDLE runs the word at the head of the queue, and a refused word is a refused step. -/
theorem reservedRequestsAreRefused : Obligations.ReservedRequestsAreRefused := by
  intro s w rest hs hq hh
  have hstep : step s = mapNext (·.setHost rest) (runRequest w s.popTurn) := by
    rw [step_of_seqTurn hs, seqStep_idle (by exact hq), idleStep_request_eq (by exact hh)]
  refine ⟨fun hop => ?_, fun hb hop => ?_⟩
  · rw [hstep, runRequest_reserved _ hop]; rfl
  · rw [hstep, runRequest_bufferedOnly (by exact hq) (by exact hb) hop, mapNext_refused]

end Sys2Proof.Machine
end

section
/-! INIT accepted, and its table row by row (40_init_sequencer.md R110, R111, R125): the wait condition as an integer
difference, one step at a Delay row, one step at any other row. -/

namespace Sys2Proof.Machine

open Sys2Proof.Claims

/-- Settles O11: at IDLE every request is accepted, and INIT's acceptance sets the position. -/
theorem initIsAccepted : Obligations.InitIsAccepted :=
  fun _ _ _ _ hq => accept_idle hq

/-! ### The wait condition -/

/-- `elapsed` is the integer difference modulo `2^MSW` (10_state.md R24), whatever the two counters hold. -/
theorem cast_elapsed (s : State) : (s.elapsed : Int) = ((s.ms : Int) - s.t0) % (2 ^ s.cfg.msw : Nat) := by
  have hle : s.t0 % 2 ^ s.cfg.msw ≤ 2 ^ s.cfg.msw := (Nat.mod_lt _ (Nat.two_pow_pos _)).le
  rw [State.elapsed, Config.msMod, Int.natCast_emod, Int.natCast_add, Int.natCast_sub hle, Int.natCast_emod,
    ← add_sub_assoc, add_sub_right_comm, Int.add_emod_right, Int.sub_emod_emod]

theorem waitOver_eq_true {s : State} {n : Nat} :
    s.waitOver n = true ↔ (n : Int) ≤ ((s.ms : Int) - s.t0) % (2 ^ s.cfg.msw : Nat) := by
  rw [State.waitOver, decide_eq_true_eq, ← cast_elapsed, Int.ofNat_le]

theorem waitOver_eq_false {s : State} {n : Nat} :
    s.waitOver n = false ↔ ((s.ms : Int) - s.t0) % (2 ^ s.cfg.msw : Nat) < n := by
  rw [← Bool.not_eq_true, waitOver_eq_true, not_le]

/-- Settles O29: the difference of the two counters, taken modulo `2^32`, at five values of `ms`. -/
theorem delayAcrossTheWrap : Obligations.DelayAcrossTheWrap := by
  intro s hmsw ht0
  refine ⟨?_, ?_, ?_, ?_, ?_⟩ <;> intro hms <;>
    simp [State.waitOver, State.elapsed, Config.msMod, hmsw, ht0, hms]

/-! ### The Delay rows -/

/-- INIT's Delays are the rows at which `delayAt` has a count. -/
theorem mem_initDelays {cfg : Config} {k n : Nat} :
    (k, n) ∈ initDelays cfg ↔ delayAt cfg (.row .init k) = some n := by
  constructor
  · intro h
    simp only [initDelays, List.mem_cons, Prod.mk.injEq, List.not_mem_nil, or_false] at h
    rcases h with ⟨rfl, rfl⟩ | ⟨rfl, rfl⟩ | ⟨rfl, rfl⟩ | ⟨rfl, rfl⟩ <;> rfl
  · intro h
    obtain ⟨-, rfl | rfl | rfl | rfl⟩ := delayAt_some h <;> cases h <;> simp [initDelays]

/-- At a Delay row the sequencer makes one step of the Delay; the row after it is never IDLE. -/
theorem step_delay {s : State} {k n : Nat} (hs : s.seqTurn = true) (hq : s.seq = .row .init k)
    (hn : delayAt s.cfg (.row .init k) = some n) :
    step s = .next (delayStep n (.row .init (k + 1)) s.popTurn) := by
  have row : rowAt s.popTurn .init k = some (.delay n) := rowAt_of_delayAt hn
  have hk : k < 16 := by obtain ⟨-, rfl | rfl | rfl | rfl⟩ := delayAt_some hn <;> decide
  rw [step_of_seqTurn hs, seqStep_at (by exact hq), microStep, row]
  simp [nextSeq, Op.last, hk]

/-- Settles O28: the entry, the held poll and the passing poll of `delayStep`. -/
theorem delayRows : Obligations.DelayRows := by
  intro s k n hs hq hmem
  rw [step_delay hs hq (mem_initDelays.1 hmem)]
  refine ⟨fun off => ?_, fun on held => ?_, fun on passed => ?_⟩
  · rw [delayStep_entry (by exact off)]; rfl
  · rw [delayStep_hold (by exact on) (by exact waitOver_eq_false.2 held)]; rfl
  · rw [delayStep_pass (by exact on) (by exact waitOver_eq_true.2 passed)]; rfl

/-! ### The rows that are no Delay -/

theorem rowAt_ne_ramwrc {s : State} {op : Op} {k : Nat} {i : Instr} (row : rowAt s op k = some (.wire i))
    (p : Color) (ps : List Color) : i ≠ .ramwrc p ps := by
  rintro rfl
  cases op <;> simp only [rowAt] at row
  · unfold initRow at row; split at row <;> cases row
  · unfold setpixelRow at row; split at row <;> cases row
  · unfold refreshRow at row; split at row <;> cases row

/-- A wire row's command always answers a next state: its part's events appended, `DC` as they drive it. -/
theorem exec_of_wireRow {s : State} {op : Op} {k : Nat} {i : Instr} (pos : s.seq = .row op k)
    (row : rowAt s op k = some (.wire i)) :
    exec i s = .next { s with
      dc := lastDc s.dc (wireEvents s.cfg (Seq.row op k).inParams i)
      trace := s.trace ++ wireEvents s.cfg (Seq.row op k).inParams i } := by
  have hreq := rowAt_wire row
  have answers : ∃ t, exec i s = .next t := by
    cases i with
    | init | setpixel | refresh | getwidth | getheight | getbuffer => cases hreq
    | ramwrc p ps => exact absurd rfl (rowAt_ne_ramwrc row p ps)
    | _ => exact ⟨_, rfl⟩
  obtain ⟨t, ht⟩ := answers
  rw [ht, exec_wire_eq hreq ht, pos]

theorem lastRes_wireEvents (d : Line) (cfg : Config) (data : Bool) (i : Instr) :
    lastRes d (wireEvents cfg data i) = d := by
  cases i <;> cases data <;> rfl

/-- One step at a row that is no Delay: the row's events appended, the lines as these drive them, the zero-fill. -/
theorem step_row {s : State} {op : Op} {k : Nat} {m : MicroStep} (hs : s.seqTurn = true)
    (pos : s.seq = .row op k) (row : rowAt s op k = some m) (hm : ∀ n, m ≠ .delay n) :
    step s = .next { s with
      turns := s.turns.tail
      seq := nextSeq op k
      res := lastRes s.res (m.events s.cfg (Seq.row op k).inParams)
      dc := lastDc s.dc (m.events s.cfg (Seq.row op k).inParams)
      fb := if m = .zeroFill ∧ s.cfg.buffered = true then Fb.zeroFilled else s.fb
      trace := s.trace ++ m.events s.cfg (Seq.row op k).inParams } := by
  have row' : rowAt s.popTurn op k = some m := row
  rw [step_of_seqTurn hs, seqStep_at (by exact pos)]
  cases m with
  | pin l => rw [microStep, row']; rfl
  | delay n => exact absurd rfl (hm n)
  | wire i =>
    rw [microStep_wire row', exec_of_wireRow (by exact pos) row']
    simp only [MicroStep.events, lastRes_wireEvents]
    rfl
  | zeroFill =>
    rw [microStep, row']
    simp only [zeroFill_eq, MicroStep.events, List.append_nil, true_and]
    rfl

theorem exists_initRow (cfg : Config) {k : Nat} (hk : k ≤ 16) : ∃ m, initRow cfg k = some m := by
  interval_cases k <;> exact ⟨_, rfl⟩

/-- What INIT's rows append, as the table of the specification writes it out. -/
theorem events_of_initRow {cfg : Config} {k : Nat} {m : MicroStep} (row : initRow cfg k = some m)
    (hm : ∀ n, m ≠ .delay n) : m.events cfg (Seq.row .init k).inParams = initRowEvents cfg k := by
  unfold initRow at row
  split at row <;> cases row
  case h_2 | h_4 | h_6 | h_8 => exact absurd rfl (hm _)
  all_goals rfl

/-- Settles O27: `step_row` at INIT's rows; `RES` is driven at rows 0 and 2 only, and only row 16 is the zero-fill. -/
theorem initTableRows : Obligations.InitTableRows := by
  intro s k hs pos hk hdelay
  obtain ⟨m, row⟩ := exists_initRow s.cfg hk
  have hm : ∀ n, m ≠ .delay n := by
    rintro n rfl
    exact hdelay (List.mem_map.2 ⟨(k, n), mem_initDelays.2 (rowAt_delay (s := s) row), rfl⟩)
  have hfill : m = .zeroFill ↔ k = 16 := by
    unfold initRow at row; split at row <;> cases row <;> simp
  have hseq : nextSeq .init k = if k = 16 then .idle else .row .init (k + 1) := by
    rw [nextSeq, if_congr (show k < Op.init.last ↔ k ≠ 16 from hk.lt_iff_ne) rfl rfl, ite_not]
  have hres : lastRes s.res (initRowEvents s.cfg k) =
      if k = 0 then .low else if k = 2 then .high else s.res := by
    unfold initRowEvents; split <;> simp_all [lastRes, Level.line]
  rw [step_row hs pos row hm, events_of_initRow row hm, hseq, hres]
  simp only [hfill]
  rfl

end Sys2Proof.Machine
end

section
/-! Runs of any machine behind `Host.Core`, step by step and one after the other. -/

namespace Sys2Proof.Machine

variable {M : Host.Core}

theorem run_succ {k : Nat} {s t : M.State} (h : M.step s = .next t) : M.run (k + 1) s = M.run k t := by
  rw [Host.Core.run, h]

theorem exists_step_of_run_succ {k : Nat} {s t : M.State} (h : M.run (k + 1) s = .next t) :
    ∃ u, M.step s = .next u ∧ M.run k u = .next t := by
  cases hs : M.step s with
  | next u => exact ⟨u, rfl, (run_succ hs).symm.trans h⟩
  | fault r => rw [Host.Core.run, hs] at h; cases h
  | refused r => rw [Host.Core.run, hs] at h; cases h

/-- A run goes on from where its first part ends. -/
theorem run_add {a b : Nat} {s t : M.State} (h : M.run a s = .next t) : M.run (a + b) s = M.run b t := by
  induction a generalizing s with
  | zero => cases h; rw [Nat.zero_add]
  | succ a ih =>
    obtain ⟨u, hstep, hrun⟩ := exists_step_of_run_succ h
    rw [Nat.succ_add, run_succ hstep, ih hrun]

theorem run_one {s t : State} (h : step s = .next t) : core.run 1 s = .next t :=
  run_succ (M := core) h

end Sys2Proof.Machine
end

section
/-! A Delay is a lower bound (40_init_sequencer.md R112): what it still has to wait falls by at most one a tick. -/

namespace Sys2Proof.Machine

open Sys2Proof.Claims

/-- Counted from `t0`, `j` milliseconds have elapsed when `ms` stands `j` after it, `j` below the modulus. -/
theorem elapsed_eq {s : State} {j : Nat} (hms : s.ms % s.cfg.msMod = (s.t0 + j) % s.cfg.msMod)
    (hj : j < s.cfg.msMod) : s.elapsed = j := by
  have hle : s.t0 % s.cfg.msMod ≤ s.cfg.msMod := (Nat.mod_lt _ (msMod_pos _)).le
  have hsum : s.t0 % s.cfg.msMod + j + (s.cfg.msMod - s.t0 % s.cfg.msMod) = j + s.cfg.msMod := by omega
  rw [State.elapsed, ← Nat.mod_add_mod, hms, ← Nat.mod_add_mod s.t0, Nat.mod_add_mod, hsum,
    Nat.add_mod_right, Nat.mod_eq_of_lt hj]

/-- One tick is at most one more elapsed, also across the wrap. -/
theorem elapsed_le_of_tick {s t : State} (hcfg : t.cfg = s.cfg) (ht0 : t.t0 = s.t0)
    (hms : t.ms = s.ms ∨ t.ms = (s.ms + 1) % s.cfg.msMod) :
    t.elapsed ≤ (if t.ms = s.ms then 0 else 1) + s.elapsed := by
  unfold State.elapsed
  rw [hcfg, ht0]
  split
  case isTrue same => rw [same, Nat.zero_add]
  case isFalse ticked =>
    rw [hms.resolve_left ticked, Nat.mod_add_mod, Nat.add_comm 1, Nat.add_right_comm, ← Nat.mod_add_mod]
    exact Nat.mod_le _ _

/-- What a Delay of `n` still has to wait: all of it before the entry step, then `n` less what has elapsed. -/
def State.delayLeft (n : Nat) (s : State) : Nat := if s.delayOn then n - s.elapsed else n

theorem delayLeft_eq_zero {n : Nat} {s : State} (on : s.delayOn = true) (passed : s.waitOver n = true) :
    s.delayLeft n = 0 := by
  have hle : n ≤ s.elapsed := by simpa [State.waitOver] using passed
  simp [State.delayLeft, on, hle]

theorem delayLeft_of_off {n : Nat} {s : State} (off : s.delayOn = false) : s.delayLeft n = n := by
  simp [State.delayLeft, off]

theorem delayLeft_of_entry {n : Nat} {s : State} (hms : s.ms = s.t0) : s.delayLeft n = n := by
  simp [State.delayLeft, elapsed_eq (j := 0) (congrArg (· % s.cfg.msMod) hms) (msMod_pos _)]

theorem delayLeft_le_of_tick {s t : State} (n : Nat) (hcfg : t.cfg = s.cfg) (ht0 : t.t0 = s.t0)
    (hon : t.delayOn = s.delayOn) (hms : t.ms = s.ms ∨ t.ms = (s.ms + 1) % s.cfg.msMod) :
    s.delayLeft n ≤ (if t.ms = s.ms then 0 else 1) + t.delayLeft n := by
  have := elapsed_le_of_tick hcfg ht0 hms
  unfold State.delayLeft
  rw [hon]
  split <;> omega

theorem nextSeq_ne (op : Op) (k : Nat) : nextSeq op k ≠ .row op k := by
  unfold nextSeq; split <;> simp

/-- A step at a Delay's row leaves the row with nothing left to wait, or stays with at most its own tick less. -/
theorem Move.delayLeft_le {s t : State} {n : Nat} (m : Move s t) (hn : delayAt s.cfg s.seq = some n) :
    s.delayLeft n = 0 ∨
    (t.seq = s.seq ∧ s.delayLeft n ≤ (if t.ms = s.ms then 0 else 1) + t.delayLeft n) := by
  have only_delay {op : Op} {k : Nat} {r : MicroStep} (pos : s.seq = .row op k)
      (row : rowAt s op k = some r) : r = .delay n :=
    Option.some.inj (row.symm.trans (rowAt_of_delayAt (pos ▸ hn)))
  have busy : s.seq ≠ .idle := by intro idle; cases idle ▸ hn
  have hms := m.ms_writers.imp_right fun ⟨_, _, h⟩ => h
  cases m with
  | environment | delayHold => exact .inr ⟨rfl, delayLeft_le_of_tick n rfl rfl rfl hms⟩
  | nothing idle | start _ _ _ idle | answer _ _ _ idle | fbWrite _ _ _ idle | fbRead _ _ idle =>
    exact absurd idle busy
  | pin _ _ _ pos row | command _ _ _ _ pos row | dataByte _ _ _ _ pos row | dataBuf _ _ _ _ pos row
  | zeroFill _ _ pos row => cases only_delay pos row
  | delayEntry _ _ _ _ _ off =>
    exact .inr ⟨rfl, by rw [delayLeft_of_off off, if_pos rfl, Nat.zero_add, delayLeft_of_entry rfl]⟩
  | delayPass _ _ _ pos row on passed =>
    cases only_delay pos row
    exact .inl (delayLeft_eq_zero on passed)

theorem ticksIn_succ {k : Nat} {s t : State} (h : step s = .next t) :
    ticksIn (k + 1) s = (if t.ms = s.ms then 0 else 1) + ticksIn k t := by
  simp [ticksIn, h]

/-- A run that ends away from a Delay's row has had the ticks that the Delay still had to wait. -/
theorem delayLeft_le_ticksIn {m n : Nat} {s t : State} (hn : delayAt s.cfg s.seq = some n)
    (hrun : core.run m s = .next t) (hleft : t.seq ≠ s.seq) : s.delayLeft n ≤ ticksIn m s := by
  induction m generalizing s with
  | zero => cases hrun; exact absurd rfl hleft
  | succ m ih =>
    obtain ⟨u, hstep, hrun⟩ := exists_step_of_run_succ hrun
    have move := Move.of_step hstep
    rcases move.delayLeft_le hn with hzero | ⟨hseq, hle⟩
    · rw [hzero]; exact Nat.zero_le _
    · have := ih (s := u) (by rw [move.cfg_eq, hseq, hn]) hrun (hseq ▸ hleft)
      rw [ticksIn_succ hstep]
      omega

/-- Settles O38: a Delay that is not entered has all of its `n` ticks left, and the next row is not its own. -/
theorem delayIsALowerBound : Obligations.DelayIsALowerBound := by
  intro m s t k n hmem hq off hrun hnext
  have hn : delayAt s.cfg s.seq = some n := hq ▸ mem_initDelays.1 hmem
  exact delayLeft_of_off (n := n) off ▸ delayLeft_le_ticksIn hn hrun (by simp [hnext, hq])

end Sys2Proof.Machine
end

section
/-! One whole INIT (40_init_sequencer.md R121, R122; 70_reset_and_hazards.md R251): the runs from row to row with ticks
only while a Delay holds, and what the rows append added up. -/

namespace Sys2Proof.Machine

open Sys2Proof.Claims

/-! ### The state that some events of an INIT leave -/

/-- The wait-start latch after some events, `now` milliseconds on the counter before them: `ms` at the entry of the last
Delay among them. -/
def waitStart (modulus now t0 : Nat) : List Event → Nat
  | [] => t0
  | .wait n :: es => waitStart modulus (now + n) (now % modulus) es
  | .res _ :: es => waitStart modulus now t0 es
  | .dc _ :: es => waitStart modulus now t0 es
  | .tx _ :: es => waitStart modulus now t0 es
  | .txb _ :: es => waitStart modulus now t0 es

theorem waitStart_mod (modulus now t0 : Nat) (es : List Event) :
    waitStart modulus (now % modulus) t0 es = waitStart modulus now t0 es := by
  induction es generalizing now t0 with
  | nil => rfl
  | cons e es ih =>
    cases e with
    | wait n => rw [waitStart, waitStart, ← ih (now % modulus + n), Nat.mod_add_mod, ih, Nat.mod_mod]
    | res | dc | tx | txb => exact ih now t0

theorem waitStart_append (modulus now t0 : Nat) (as bs : List Event) :
    waitStart modulus now t0 (as ++ bs) =
      waitStart modulus (now + waitSum as) (waitStart modulus now t0 as) bs := by
  induction as generalizing now t0 with
  | nil => rfl
  | cons e es ih =>
    cases e with
    | wait n => rw [waitSum, ← Nat.add_assoc]; exact ih (now + n) (now % modulus)
    | res | dc | tx | txb => exact ih now t0

/-- `s` at position `q` after the micro-steps that append `es`, the counter having run during their waits only. -/
def State.after (s : State) (q : Seq) (es : List Event) : State :=
  { s with
    seq := q
    res := lastRes s.res es
    dc := lastDc s.dc es
    t0 := waitStart s.cfg.msMod s.ms s.t0 es
    ms := (s.ms + waitSum es) % s.cfg.msMod
    trace := s.trace ++ es }

theorem after_after (s : State) (p q : Seq) (as bs : List Event) :
    (s.after p as).after q bs = s.after q (as ++ bs) := by
  simp [State.after, waitStart_append, waitStart_mod, Nat.add_assoc]

theorem after_nil {s : State} (hms : s.ms < s.cfg.msMod) : s.after s.seq [] = s := by
  simp [State.after, lastRes, lastDc, waitStart, waitSum, Nat.mod_eq_of_lt hms]

/-- A legal instance with `ms` in range, no Delay entered, the tick source running and no turns given: the tick source
will step while a Delay holds and at no other time (log entry 9). -/
structure State.DefaultTiming (s : State) : Prop where
  wf : s.cfg.wf = true
  turns : s.turns = []
  ticking : s.tickOn = true
  delayOff : s.delayOn = false
  ms_lt : s.ms < s.cfg.msMod

theorem State.DefaultTiming.after {s : State} (h : s.DefaultTiming) (q : Seq) (es : List Event) :
    (s.after q es).DefaultTiming :=
  ⟨h.wf, h.turns, h.ticking, h.delayOff, Nat.mod_lt _ (msMod_pos _)⟩

theorem holding_eq_false {s : State} (off : s.delayOn = false) : s.holding = false := by
  unfold State.holding; split <;> simp [off]

theorem State.DefaultTiming.seqTurn {s : State} (h : s.DefaultTiming) : s.seqTurn = true :=
  seqTurn_of_not_holding h.turns (holding_eq_false h.delayOff)

/-! ### A row that is no Delay takes one step -/

/-- The events of a row that is no Delay hold no wait. -/
theorem waits_of_row {m : MicroStep} (hm : ∀ n, m ≠ .delay n) (cfg : Config) (data : Bool) :
    waitSum (m.events cfg data) = 0
    ∧ ∀ modulus now t0, waitStart modulus now t0 (m.events cfg data) = t0 := by
  cases m with
  | pin | zeroFill => exact ⟨rfl, fun _ _ _ => rfl⟩
  | delay n => exact absurd rfl (hm n)
  | wire i => cases i <;> cases data <;> exact ⟨rfl, fun _ _ _ => rfl⟩

/-- The step at a row that is no Delay under the default timing. -/
theorem State.DefaultTiming.step_row {s : State} {op : Op} {k : Nat} {m : MicroStep} (h : s.DefaultTiming)
    (pos : s.seq = .row op k) (row : rowAt s op k = some m) (hm : ∀ n, m ≠ .delay n) :
    step s = .next { s.after (nextSeq op k) (m.events s.cfg (Seq.row op k).inParams) with
      fb := if m = .zeroFill ∧ s.cfg.buffered = true then Fb.zeroFilled else s.fb } := by
  obtain ⟨hsum, hstart⟩ := waits_of_row hm s.cfg (Seq.row op k).inParams
  rw [Machine.step_row h.seqTurn pos row hm, State.after, hsum, hstart, Nat.add_zero, Nat.mod_eq_of_lt h.ms_lt,
    h.turns]
  rfl

/-! ### A Delay of `n` takes its entry step, `n` ticks and the passing poll -/

/-- `s` with its Delay entered and `j` milliseconds gone by since. -/
def State.waiting (s : State) (j : Nat) : State :=
  { s with t0 := s.ms, delayOn := true, ms := (s.ms + j) % s.cfg.msMod }

theorem waitOver_waiting {s : State} {j n : Nat} (hj : j < s.cfg.msMod) :
    (s.waiting j).waitOver n = decide (n ≤ j) := by
  rw [State.waitOver, elapsed_eq (s := s.waiting j) (j := j) (Nat.mod_mod _ _) hj]

theorem holding_waiting {s : State} {j n : Nat} (hn : delayAt s.cfg s.seq = some n) (hj : j < s.cfg.msMod) :
    (s.waiting j).holding = decide (j < n) := by
  have hn' : delayAt (s.waiting j).cfg (s.waiting j).seq = some n := hn
  simp only [State.holding, hn', waitOver_waiting hj]
  simp [State.waiting, ← decide_not]

/-- The waits of a legal configuration are below the modulus (R111). -/
theorem delay_lt_msMod {cfg : Config} {q : Seq} {n : Nat} (hwf : cfg.wf = true) (hn : delayAt cfg q = some n) :
    n < cfg.msMod := by
  simp only [Config.wf, Bool.and_eq_true, decide_eq_true_eq] at hwf
  obtain ⟨⟨⟨⟨⟨-, hlow⟩, hboot⟩, hreset⟩, hout⟩, -⟩ := hwf
  unfold delayAt at hn
  split at hn <;> cases hn
  · exact hlow
  · exact hboot
  · exact hreset
  · exact hout

section

variable {s : State} {k n : Nat} (h : s.DefaultTiming) (pos : s.seq = .row .init k)
  (hn : delayAt s.cfg (.row .init k) = some n)
include h pos hn

theorem step_entry : step s = .next (s.waiting 0) := by
  rw [step_delay h.seqTurn pos hn, popTurn_of_nil h.turns, delayStep_entry h.delayOff, State.waiting,
    Nat.add_zero, Nat.mod_eq_of_lt h.ms_lt]

theorem step_tick {j : Nat} (hj : j < n) : step (s.waiting j) = .next (s.waiting (j + 1)) := by
  have hlt := hj.trans (delay_lt_msMod h.wf hn)
  have turns : (s.waiting j).turns = [] := h.turns
  have tick : (s.waiting j).nextTurn = .tick := by
    rw [nextTurn_of_nil turns, holding_waiting (pos ▸ hn) hlt]
    simp [hj, State.waiting, h.ticking]
  rw [step_of_nextTurn tick nofun, popTurn_of_nil turns, environmentStep_eq]
  simp [State.waiting, h.ticking, Nat.add_assoc]

theorem step_pass : step (s.waiting n) = .next (s.after (.row .init (k + 1)) [.wait n]) := by
  have hlt := delay_lt_msMod h.wf hn
  have turns : (s.waiting n).turns = [] := h.turns
  have turn : (s.waiting n).seqTurn = true :=
    seqTurn_of_not_holding turns (by simp [holding_waiting (pos ▸ hn) hlt])
  rw [step_delay turn pos hn, popTurn_of_nil turns,
    delayStep_pass rfl (by simp [waitOver_waiting hlt])]
  simp [State.waiting, State.after, waitStart, waitSum, lastRes, lastDc, Nat.mod_eq_of_lt h.ms_lt, h.delayOff]

theorem run_ticks {j : Nat} (hj : j ≤ n) : core.run (j + 1) s = .next (s.waiting j) := by
  induction j with
  | zero => exact run_one (step_entry h pos hn)
  | succ j ih => exact (run_add (ih (by omega))).trans (run_one (step_tick h pos hn hj))

theorem run_delay : core.run (n + 2) s = .next (s.after (.row .init (k + 1)) [.wait n]) :=
  (run_add (run_ticks h pos hn le_rfl)).trans (run_one (step_pass h pos hn))

end

/-! ### From row to row -/

/-- How many steps a row takes when the tick source steps only while a Delay holds. -/
def MicroStep.steps : MicroStep → Nat
  | .delay n => n + 2
  | .pin _ => 1
  | .wire _ => 1
  | .zeroFill => 1

/-- How many steps INIT's rows before row `k` take. -/
def stepsBefore (cfg : Config) (k : Nat) : Nat :=
  (((List.range k).filterMap (initRow cfg)).map MicroStep.steps).sum

theorem stepsBefore_succ {cfg : Config} {k : Nat} {m : MicroStep} (row : initRow cfg k = some m) :
    stepsBefore cfg (k + 1) = stepsBefore cfg k + m.steps := by
  simp [stepsBefore, List.range_succ, row]

/-- A row before the zero-fill is passed in its steps, with its events appended. -/
theorem run_initRow {s : State} {k : Nat} {m : MicroStep} (h : s.DefaultTiming) (pos : s.seq = .row .init k)
    (row : initRow s.cfg k = some m) (hk : k < 16) :
    core.run m.steps s = .next (s.after (.row .init (k + 1)) (m.events s.cfg (Seq.row .init k).inParams)) := by
  have hnext : nextSeq .init k = .row .init (k + 1) := if_pos hk
  have one_step (hm : ∀ n, m ≠ .delay n) (hfill : m ≠ .zeroFill) :
      step s = .next (s.after (.row .init (k + 1)) (m.events s.cfg (Seq.row .init k).inParams)) := by
    rw [h.step_row pos row hm, hnext]
    simp [hfill, State.after]
  cases m with
  | delay n => exact run_delay h pos (rowAt_delay (s := s) row)
  | pin | wire => exact run_one (one_step nofun nofun)
  | zeroFill => exact absurd (rowAt_zeroFill (s := s) (op := .init) row).2 hk.ne

/-- The steps of the rows before row `k` lead from row 0 to it, with their events appended. -/
theorem run_to_row {s : State} {k : Nat} (h : s.DefaultTiming) (pos : s.seq = .row .init 0) (hk : k ≤ 16) :
    core.run (stepsBefore s.cfg k) s =
      .next (s.after (.row .init k) ((initEvents s.cfg).take (eventsBefore .init k))) := by
  induction k with
  | zero => exact congrArg _ (pos ▸ after_nil h.ms_lt).symm
  | succ k ih =>
    obtain ⟨m, row⟩ := exists_initRow s.cfg (show k ≤ 16 by omega)
    have hevents : (initEvents s.cfg).take (eventsBefore .init (k + 1)) =
        (initEvents s.cfg).take (eventsBefore .init k) ++ m.events s.cfg (Seq.row .init k).inParams :=
      take_eventsBefore_succ (s := s) (op := .init) h.wf row
    rw [stepsBefore_succ row, run_add (ih (by omega)), hevents, ← after_after s (.row .init k)]
    exact run_initRow (h.after _ _) rfl row hk

/-! ### From the presented request to IDLE -/

/-- `s` after one whole INIT with these operands, `rest` still waiting at the host's port. -/
def State.afterInit (s : State) (x y : Coord) (c : Color) (rest : List HostAct) : State :=
  { s.after .idle (initEvents s.cfg) with
    x := x, y := y, c := c, host := rest
    fb := if s.cfg.buffered = true then Fb.zeroFilled else s.fb }

theorem State.DefaultTiming.afterInit {s : State} (h : s.DefaultTiming) (x y : Coord) (c : Color)
    (rest : List HostAct) : (s.afterInit x y c rest).DefaultTiming :=
  ⟨h.wf, h.turns, h.ticking, h.delayOff, Nat.mod_lt _ (msMod_pos _)⟩

/-- Acceptance, sixteen rows and the zero-fill. -/
theorem initSteps_eq (cfg : Config) : initSteps cfg = stepsBefore cfg 16 + 1 + 1 := by
  simp only [initSteps, waits, stepsBefore, List.range_succ, List.range_zero, List.nil_append, List.cons_append,
    List.filterMap_cons, List.filterMap_nil, initRow, List.map_cons, List.map_nil, MicroStep.steps, List.sum_cons,
    List.sum_nil]
  omega

/-- The last row: all 26 events are out, and the framebuffer of the buffered variant is filled. -/
theorem run_rows {s : State} (h : s.DefaultTiming) (pos : s.seq = .row .init 0) :
    core.run (stepsBefore s.cfg 16 + 1) s = .next (s.afterInit s.x s.y s.c s.host) := by
  have hall : (initEvents s.cfg).take (eventsBefore .init 16) = initEvents s.cfg := rfl
  have hlast := (h.after (.row .init 16) (initEvents s.cfg)).step_row (m := .zeroFill) rfl rfl nofun
  rw [run_add (run_to_row h pos le_rfl), hall, run_one hlast, after_after]
  simp only [MicroStep.events, List.append_nil, true_and]
  rfl

theorem step_acceptInit {s : State} {w : ReqWord} {rest : List HostAct} {x y : Coord} {c : Color} (h : s.DefaultTiming)
    (hq : s.seq = .idle) (hhost : s.host = .request w :: rest) (hd : decodeRequest w = .ok (.init x y c)) :
    step s = .next { s with x := x, y := y, c := c, host := rest, seq := .row .init 0 } := by
  rw [stepRunsDecodedRequest s w rest _ h.seqTurn hq hhost hd, initIsAccepted x y c _ (by exact hq), h.turns]
  rfl

theorem run_init {s : State} {w : ReqWord} {rest : List HostAct} {x y : Coord} {c : Color} (h : s.DefaultTiming)
    (hq : s.seq = .idle) (hhost : s.host = .request w :: rest) (hd : decodeRequest w = .ok (.init x y c)) :
    core.run (initSteps s.cfg) s = .next (s.afterInit x y c rest) := by
  rw [initSteps_eq, run_succ (M := core) (step_acceptInit h hq hhost hd)]
  exact run_rows ⟨h.wf, h.turns, h.ticking, h.delayOff, h.ms_lt⟩ rfl

/-- Settles O36: the events and the latches are those of the rows, added up. -/
theorem initRunsToIdle : Obligations.InitRunsToIdle := by
  intro s w rest x y c hwf hms off on hq hturns hhost hd
  have hsum : waitSum (initTrace s.cfg) = waits s.cfg := by
    simp [initTrace, waitSum, waits, Nat.add_assoc]
  refine ⟨?_, rfl, rfl, hsum⟩
  rw [run_init ⟨hwf, hturns, on, off, hms⟩ hq hhost hd, ← hsum]
  rfl

/-! ### A second INIT -/

theorem afterInit_fb_of_buffered {s : State} (hb : s.cfg.buffered = true) (x y : Coord) (c : Color)
    (rest : List HostAct) : (s.afterInit x y c rest).fb = Fb.zeroFilled :=
  if_pos hb

theorem afterInit_fb_of_unbuffered {s : State} (hb : s.cfg.buffered = false) (x y : Coord) (c : Color)
    (rest : List HostAct) : (s.afterInit x y c rest).fb = s.fb :=
  if_neg (by simp [hb])

@[simp] theorem Fb.read_zeroFilled (j : Nat) : Fb.zeroFilled.read j = 0 := rfl

/-- `s` after the host's write of one framebuffer entry, `rest` still waiting at the host's port. -/
def State.afterWrite (s : State) (i : Nat) (v : Color) (rest : List HostAct) : State :=
  (s.setFb (s.fb.write i v)).setHost rest

theorem State.DefaultTiming.afterWrite {s : State} (h : s.DefaultTiming) (i : Nat) (v : Color) (rest : List HostAct) :
    (s.afterWrite i v rest).DefaultTiming :=
  ⟨h.wf, h.turns, h.ticking, h.delayOff, h.ms_lt⟩

theorem step_fbWrite {s : State} {i : Nat} {v : Color} {rest : List HostAct} (h : s.DefaultTiming) (hq : s.seq = .idle)
    (hhost : s.host = .fbWrite i v :: rest) (hb : s.cfg.buffered = true) (hi : i < s.cfg.size) :
    step s = .next (s.afterWrite i v rest) := by
  rw [step_of_seqTurn h.seqTurn, popTurn_of_nil h.turns, seqStep_idle hq, idleStep, hhost]
  simp [hostWrite, hb, hi, State.afterWrite]

/-- Settles O37: each INIT is `run_init`, the second one from the state that the first, or the host's write after it,
has left. -/
theorem secondInitIsLikeTheFirst : Obligations.SecondInitIsLikeTheFirst := by
  intro s w1 w2 rest x1 y1 x2 y2 c1 c2 hwf hms off on hq hturns hd1 hd2
  have h : s.DefaultTiming := ⟨hwf, hturns, on, off, hms⟩
  constructor
  · intro hhost
    have first := run_init h hq hhost hd1
    have second := run_init (h.afterInit x1 y1 c1 (.request w2 :: rest)) rfl rfl hd2
    refine ⟨_, (run_add first).trans second, rfl, rfl, rfl, rfl, fun hb j => ?_, fun hb => ?_⟩
    · rw [afterInit_fb_of_buffered (by exact hb), Fb.read_zeroFilled]
    · rw [afterInit_fb_of_unbuffered (by exact hb), afterInit_fb_of_unbuffered hb]
  · intro i v hb hi hhost
    have hfirst := h.afterInit x1 y1 c1 (.fbWrite i v :: .request w2 :: rest)
    have first := run_init h hq hhost hd1
    have write := run_one (step_fbWrite hfirst rfl rfl hb hi)
    have second := run_init (hfirst.afterWrite i v (.request w2 :: rest)) rfl rfl hd2
    have written := (run_add first).trans write
    refine ⟨_, _, written, ?_, (run_add written).trans second, rfl, rfl, rfl, rfl, fun j => ?_⟩
    · rw [State.afterWrite, State.setHost_fb, State.setFb_fb, afterInit_fb_of_buffered hb,
        readAfterWrite _ i i v Fb.zeroFilled_wf, if_pos rfl]
    · rw [afterInit_fb_of_buffered (by exact hb), Fb.read_zeroFilled]

end Sys2Proof.Machine
end

section
/-! The pin and transport primitives (41_framing.md R141 to R144): the frames that each write adds to a trace. -/

namespace Sys2Proof.Machine

/-- Driving the line fixes the tag of the frames that follow, whatever the line was before. -/
theorem frames_append_dc (es : List Event) (l : Level) (after : List Event) :
    frames (es ++ .dc l :: after) = frames es ++ framesFrom l.line after :=
  framesFrom_append .u es _

theorem frames_writeCommand (b : Byte) (s : State) :
    frames (writeCommand b s).trace = frames s.trace ++ [⟨.low, b⟩] := by
  rw [writeCommand_eq]
  exact frames_append_dc _ _ _

theorem frames_writeData8 (b : Byte) (s : State) :
    frames (writeData8 b s).trace = frames s.trace ++ [⟨.high, b⟩] := by
  rw [writeData8_eq]
  exact frames_append_dc _ _ _

/-- One buffer call gives one data frame for each of its bytes. -/
theorem frames_writeDataBuf (bs : List Byte) (s : State) :
    frames (writeDataBuf bs s).trace = frames s.trace ++ bs.map (fun b => ⟨.high, b⟩) := by
  rw [writeDataBuf_eq, frames_append_dc]
  simp [framesFrom, Level.line]

/-- Settles O7: each primitive is one state update, and its frames are those that follow the drive of the line. -/
theorem framingPrimitives : Obligations.FramingPrimitives :=
  ⟨fun b s => ⟨writeCommand_eq b s, frames_writeCommand b s⟩,
   fun b s => ⟨writeData8_eq b s, frames_writeData8 b s⟩,
   fun bs s => ⟨writeDataBuf_eq bs s, frames_writeDataBuf bs s⟩,
   fun s => ⟨pinRes_eq .low s, pinRes_eq .high s⟩⟩

end Sys2Proof.Machine
end

section
/-! The address window (42_window.md R160, R163): what one `SetWindow` sends, and the full-screen window. -/

namespace Sys2Proof.Machine

/-- The frames of a `SetWindow` are those of its column message and its row message. -/
theorem frames_setWindow (cs ce rs re : Coord) (s : State) :
    frames (setWindow cs ce rs re s).trace = frames s.trace ++
      (messageFrames s.cfg.cmdCaset (windowBytes cs ce) ++ messageFrames s.cfg.cmdRaset (windowBytes rs re)) := by
  rw [setWindow_eq, frames_append_dc]
  rfl

/-- Settles O8: `SetWindow` is one state update, and its frames are those of its two messages. -/
theorem setWindowEvents : Obligations.SetWindowEvents :=
  fun cs ce rs re s => ⟨setWindow_eq cs ce rs re s, frames_setWindow cs ce rs re s⟩

theorem toNat_fullEnd {dim : Coord} (h : dim ≠ 0) : (fullEnd dim).toNat = dim.toNat - 1 := by
  unfold fullEnd
  bv_omega

theorem toNat_fullEnd_lt {dim : Coord} (h : dim ≠ 0) : (fullEnd dim).toNat < dim.toNat := by
  rw [toNat_fullEnd h]
  bv_omega

/-- Settles O9: `FullWindow` is a `SetWindow`, the named rows are entries of the tables, and the bound does not wrap
because a dimension is at least 1. -/
theorem fullWindowBytes : Obligations.FullWindowBytes := by
  refine ⟨fun s => ⟨rfl, frames_setWindow 0 (fullEnd s.cfg.width) 0 (fullEnd s.cfg.height) s⟩, fun s => ?_, fun s => ?_,
    fun dim h => ⟨toNat_fullEnd h, Nat.zero_le _, toNat_fullEnd_lt h⟩, by decide⟩
  · simp [rowAt, initRow, refreshRow, fullEnd]
  · simp [rowAt, initRow, refreshRow, fullEnd]

end Sys2Proof.Machine
end

section
/-! Every memory write follows its window (42_window.md R162): the messages of whole operations, and that a trace that
stops inside an operation is cut from one that does not. -/

namespace Sys2Proof.Machine

/-! ### The messages of whole operations -/

/-- The two messages of a `SetWindow`. -/
def windowMessages (cfg : Config) (cs ce rs re : Coord) : List Message :=
  [⟨cfg.cmdCaset, windowBytes cs ce⟩, ⟨cfg.cmdRaset, windowBytes rs re⟩]

/-- The messages of a completed operation (40_init_sequencer.md R121, 43_pixel_frame.md R170, R176). -/
def Done.messages (cfg : Config) : Done → List Message
  | .init =>
    [⟨cfg.cmdSwreset, []⟩, ⟨cfg.cmdSlpout, []⟩, ⟨cfg.cmdColmod, [cfg.pixfmt]⟩, ⟨cfg.cmdInvon, []⟩,
      ⟨cfg.cmdDispon, []⟩] ++ windowMessages cfg 0 (fullEnd cfg.width) 0 (fullEnd cfg.height)
  | .setpixel x y c => windowMessages cfg x (pixelEnd x) y (pixelEnd y) ++ [⟨cfg.cmdRamwr, be16 c⟩]
  | .refresh ps =>
    windowMessages cfg 0 (fullEnd cfg.width) 0 (fullEnd cfg.height) ++ [⟨cfg.cmdRamwr, pixelBytes ps⟩]

theorem splitMessages_map_data (bs : List Byte) : splitMessages (bs.map .data) = (bs, []) := by
  induction bs with
  | nil => rfl
  | cons b bs ih => simp [splitMessages, Frame.data, ih]

/-- A command byte and a buffer call append one message. -/
theorem messages_append_bufferMessage (es : List Event) (b : Byte) (bs : List Byte) :
    messages (es ++ [.dc .low, .tx b, .dc .high, .txb bs]) = messages es ++ [⟨b, bs⟩] := by
  have hframes : frames (es ++ [.dc .low, .tx b, .dc .high, .txb bs]) = frames es ++ .cmd b :: bs.map .data := by
    rw [frames_append_dc]
    simp [framesFrom, Level.line, Frame.cmd, Frame.data]
  rw [messages, hframes, splitMessages_append_cmd]
  simp [splitMessages, Frame.cmd, splitMessages_map_data, messages]

/-- INIT drives `DC` before its first byte, so its frames do not depend on the level before, and they begin with a
command frame. -/
theorem messages_append_initEvents (cfg : Config) (es : List Event) :
    messages (es ++ initEvents cfg) = messages es ++ Done.init.messages cfg := by
  have hframes : frames (es ++ initEvents cfg) = frames es ++ framesFrom .low (initEvents cfg) :=
    framesFrom_append .u es _
  rw [messages, hframes]
  exact congrArg Prod.snd (splitMessages_append_cmd _ _ _)

/-- A whole operation appends its messages to those of the trace. -/
theorem messages_append_events (cfg : Config) (es : List Event) (o : Done) :
    messages (es ++ o.events cfg) = messages es ++ o.messages cfg := by
  cases o with
  | init => exact messages_append_initEvents cfg es
  | setpixel | refresh =>
    simp only [Done.events, setpixelEvents, refreshEvents, fullWindowEvents, ← List.append_assoc,
      messages_append_bufferMessage, messages_append_windowEvents, Done.messages, windowMessages]

theorem messages_append_operations (cfg : Config) (es : List Event) (ops : List Done) :
    messages (es ++ ops.flatMap (Done.events cfg)) = messages es ++ ops.flatMap (Done.messages cfg) := by
  induction ops generalizing es with
  | nil => simp
  | cons o ops ih => simp only [List.flatMap_cons, ← List.append_assoc, ih, messages_append_events]

/-! ### Whole operations pass the check -/

/-- Messages that are no memory write put no condition on what came before them. -/
theorem windowBeforeWrite_append_of_ne {cfg : Config} {as bs : List Message}
    (has : ∀ m ∈ as, m.cmd ≠ cfg.cmdRamwr) (hbs : ∀ p2 p1, windowBeforeWrite cfg p2 p1 bs = true)
    (p2 p1 : Option Message) : windowBeforeWrite cfg p2 p1 (as ++ bs) = true := by
  induction as generalizing p2 p1 with
  | nil => exact hbs p2 p1
  | cons m as ih =>
    obtain ⟨hm, has⟩ := List.forall_mem_cons.1 has
    simp [windowBeforeWrite, hm, ih has]

theorem length_windowBytes (a b : Coord) : (windowBytes a b).length = 4 := rfl

/-- A window and a memory write pass the check, whatever came before them. -/
theorem windowBeforeWrite_window {cfg : Config} {ms : List Message} (hcol : cfg.cmdCaset ≠ cfg.cmdRamwr)
    (hrow : cfg.cmdRaset ≠ cfg.cmdRamwr) (hms : ∀ p2 p1, windowBeforeWrite cfg p2 p1 ms = true)
    (cs ce rs re : Coord) (bs : List Byte) (p2 p1 : Option Message) :
    windowBeforeWrite cfg p2 p1 (windowMessages cfg cs ce rs re ++ [⟨cfg.cmdRamwr, bs⟩] ++ ms) = true := by
  simp [windowMessages, windowBeforeWrite, hcol, hrow, hms, length_windowBytes]

/-- Of a legal configuration every other command byte differs from that of a memory write. -/
theorem ne_cmdRamwr {cfg : Config} {b : Byte} (h : cfg.wf = true)
    (hb : b ∈ [cfg.cmdSwreset, cfg.cmdSlpout, cfg.cmdInvon, cfg.cmdDispon, cfg.cmdCaset, cfg.cmdRaset]
      ++ [cfg.cmdColmod, cfg.cmdRamwrc]) : b ≠ cfg.cmdRamwr := by
  rintro rfl
  exact absurd hb (List.nodup_cons.1 (List.nodup_middle.1 (commandBytes_nodup h))).1

/-- Whole operations pass the check: INIT writes no memory, and the other two write it right after their window. -/
theorem windowBeforeWrite_operations {cfg : Config} (h : cfg.wf = true) (ops : List Done) (p2 p1 : Option Message) :
    windowBeforeWrite cfg p2 p1 (ops.flatMap (Done.messages cfg)) = true := by
  have hinit : ∀ m ∈ Done.init.messages cfg, m.cmd ≠ cfg.cmdRamwr := by
    simp [Done.messages, windowMessages, ne_cmdRamwr h]
  have hcol : cfg.cmdCaset ≠ cfg.cmdRamwr := ne_cmdRamwr h (by simp)
  have hrow : cfg.cmdRaset ≠ cfg.cmdRamwr := ne_cmdRamwr h (by simp)
  induction ops generalizing p2 p1 with
  | nil => rfl
  | cons o ops ih =>
    rw [List.flatMap_cons]
    cases o with
    | init => exact windowBeforeWrite_append_of_ne hinit ih p2 p1
    | setpixel | refresh => exact windowBeforeWrite_window hcol hrow ih _ _ _ _ _ p2 p1

/-! ### A trace cut short -/

/-- Frames after the first command frame leave the data bytes before it. -/
theorem splitMessages_append_fst {fs : List Frame} (gs : List Frame) (h : (splitMessages fs).2 ≠ []) :
    (splitMessages (fs ++ gs)).1 = (splitMessages fs).1 := by
  induction fs with
  | nil => exact absurd rfl h
  | cons f fs ih =>
    obtain ⟨d, b⟩ := f
    cases d with
    | low => rfl
    | high | u => simpa [splitMessages] using ih h

/-- The check asks for the data of earlier messages only, and a cut can shorten the data of the last message alone: what
passes the check passes it when it stops after any frame. -/
theorem windowBeforeWrite_of_append {cfg : Config} {fs gs : List Frame} {p2 p1 : Option Message}
    (h : windowBeforeWrite cfg p2 p1 (splitMessages (fs ++ gs)).2 = true) :
    windowBeforeWrite cfg p2 p1 (splitMessages fs).2 = true := by
  induction fs generalizing p2 p1 with
  | nil => rfl
  | cons f fs ih =>
    obtain ⟨d, b⟩ := f
    cases d with
    | high | u => exact ih h
    | low =>
      simp only [List.cons_append, splitMessages, windowBeforeWrite, Bool.and_eq_true] at h ⊢
      obtain ⟨hm, hms⟩ := h
      refine ⟨hm, ?_⟩
      by_cases hnil : (splitMessages fs).2 = []
      · rw [hnil]; rfl
      · exact splitMessages_append_fst gs hnil ▸ ih hms

/-- A well-traced trace begins a trace of whole operations: the operation in progress can be completed. -/
theorem WellTraced.exists_completion {s : State} (h : WellTraced s) :
    ∃ (rest : List Event) (ops : List Done), s.trace ++ rest = ops.flatMap (Done.events s.cfg) := by
  obtain ⟨ops, -, htrace⟩ := h
  cases hq : s.seq with
  | idle => exact ⟨[], ops, by rw [htrace, partialEvents_idle hq]; simp⟩
  | row op k =>
    refine ⟨((s.doneAs op).events s.cfg).drop (eventsBefore op k), ops ++ [s.doneAs op], ?_⟩
    rw [htrace, partialEvents_row hq, List.append_assoc, List.take_append_drop]
    simp

/-- Settles O51: the check passes on the whole operations that complete the trace, and so on the trace. -/
theorem windowBeforeEveryWrite : Obligations.WindowBeforeEveryWrite := by
  intro s hinv hs
  obtain ⟨hwf, -⟩ := inv_iff.1 hinv
  obtain ⟨rest, ops, hops⟩ := hs.exists_completion
  have whole := windowBeforeWrite_operations hwf ops none none
  have hmsgs : messages (s.trace ++ rest) = ops.flatMap (Done.messages s.cfg) := by
    rw [hops]
    exact messages_append_operations s.cfg [] ops
  rw [← hmsgs, messages, frames, framesFrom_append] at whole
  exact windowBeforeWrite_of_append whole

end Sys2Proof.Machine
end

section
/-! SETPIXEL and REFRESH (43_pixel_frame.md R170 to R181): the bytes that go out, acceptance, each table row by row, and
one whole operation as the run of its table. -/

namespace Sys2Proof.Machine

open Sys2Proof.Claims

/-! ### The bytes of a pixel stream -/

/-- Pixel `i` takes the bytes at `2i` and `2i + 1`, and each pixel before it takes two bytes. -/
theorem getElem?_pixelBytes {ps : List Color} {i : Nat} {p : Color} (h : ps[i]? = some p) :
    (pixelBytes ps)[2 * i]? = some (hi p) ∧ (pixelBytes ps)[2 * i + 1]? = some (lo p) := by
  induction ps generalizing i with
  | nil => cases h
  | cons q ps ih =>
    cases i with
    | zero => obtain rfl := Option.some.inj h; exact ⟨rfl, rfl⟩
    | succ i => exact ih h

theorem length_pixels (fb : Fb) (n : Nat) : (fb.pixels n).length = n := by
  simp [Fb.pixels]

theorem getElem?_pixels (fb : Fb) {n i : Nat} (h : i < n) : (fb.pixels n)[i]? = some (fb.read i) := by
  simp [Fb.pixels, h]

theorem pixelBytes_pixels (fb : Fb) (n : Nat) : pixelBytes (fb.pixels n) = stream fb n :=
  List.flatMap_map _ _ _

/-- Settles O58: byte `2i` and byte `2i + 1` belong to pixel `i` of the framebuffer. -/
theorem streamBytesInOrder : Obligations.StreamBytesInOrder := by
  intro fb n i hin
  obtain ⟨high, low⟩ := getElem?_pixelBytes (getElem?_pixels fb hin)
  exact ⟨high, low, by rw [length_pixelBytes, length_pixels]⟩

/-! ### The window of one pixel -/

theorem toNat_pixelEnd (x : Coord) : (pixelEnd x).toNat = (x.toNat + 1) % 2 ^ 16 :=
  BitVec.toNat_add x 1

/-- Below the largest coordinate the end bound does not wrap. -/
theorem toNat_pixelEnd_of_lt {x : Coord} (h : x.toNat < 0xFFFF) : (pixelEnd x).toNat = x.toNat + 1 := by
  rw [toNat_pixelEnd, Nat.mod_eq_of_lt (by omega)]

/-- Settles O10: a coordinate that is not `0xFFFF`, or lies below a dimension, is below the wrap. -/
theorem pixelEndBounds : Obligations.PixelEndBounds := by
  refine ⟨fun s => ⟨rfl, rfl⟩, toNat_pixelEnd, fun x hx => ?_, fun x dim hdim => ?_, by decide⟩
  · exact toNat_pixelEnd_of_lt (by bv_omega)
  · have hend := toNat_pixelEnd_of_lt (x := x) (by omega)
    exact ⟨hend, by omega, by omega⟩

/-! ### Acceptance -/

theorem inRange_eq_true {cfg : Config} {x y : Coord} :
    cfg.inRange x y = true ↔ x.toNat < cfg.width.toNat ∧ y.toNat < cfg.height.toNat := by
  simp [Config.inRange]

theorem inRange_eq_false {cfg : Config} {x y : Coord} :
    cfg.inRange x y = false ↔ cfg.width.toNat ≤ x.toNat ∨ cfg.height.toNat ≤ y.toNat := by
  rw [← Bool.not_eq_true, inRange_eq_true, not_and_or, not_lt, not_lt]

/-- Settles O12: SETPIXEL's meaning at IDLE, by whether the coordinates are in range. -/
theorem setpixelIsAcceptedInRange : Obligations.SetpixelIsAcceptedInRange :=
  fun _ _ _ _ hq =>
    ⟨fun hx hy => (execSetpixel_idle hq).trans (if_pos (inRange_eq_true.2 ⟨hx, hy⟩)),
     fun hout => (execSetpixel_idle hq).trans (if_neg (by simp [inRange_eq_false.2 hout]))⟩

/-- Settles O13: REFRESH's meaning at IDLE, by the variant. -/
theorem refreshIsAcceptedWhenBuffered : Obligations.RefreshIsAcceptedWhenBuffered :=
  fun _ _ _ _ hq =>
    ⟨fun hb => (execRefresh_idle hq).trans (if_pos hb),
     fun hb => (execRefresh_idle hq).trans (if_neg (by simp [hb]))⟩

/-! ### A table of wire rows, row by row -/

/-- `s` at position `q` after the micro-steps that send `es`. -/
def State.sent (s : State) (q : Seq) (es : List Event) : State :=
  { s with seq := q, dc := lastDc s.dc es, trace := s.trace ++ es }

theorem sent_nil {s : State} {q : Seq} (h : s.seq = q) : s.sent q [] = s := by
  simp [State.sent, lastDc, ← h]

theorem sent_sent (s : State) (p q : Seq) (as bs : List Event) :
    (s.sent p as).sent q bs = s.sent q (as ++ bs) := by
  simp [State.sent]

/-- Every row of the operation's table is one part of a wire message, and row `k` sends the events `es k`. -/
def SendsRows (s : State) (op : Op) (es : Nat → List Event) : Prop :=
  ∀ k ≤ op.last, ∃ i, rowAt s op k = some (.wire i) ∧ wireEvents s.cfg (Seq.row op k).inParams i = es k

theorem setpixel_sendsRows (s : State) : SendsRows s .setpixel (setpixelRowEvents s.cfg s.x s.y s.c) := by
  intro k (hk : k ≤ 5)
  interval_cases k <;> exact ⟨_, rfl, rfl⟩

/-- REFRESH's last row sends first pixel and rest, which are the whole stream where there is a first pixel. -/
theorem refresh_sendsRows {s : State} (hsize : 0 < s.cfg.size) :
    SendsRows s .refresh (refreshRowEvents s.cfg s.fb) := by
  have whole : pixelBytes (s.fb.read 0 :: s.fb.restPixels s.cfg.size) = stream s.fb s.cfg.size := by
    rw [read_zero_cons_restPixels s.fb hsize, pixelBytes_pixels]
  intro k (hk : k ≤ 5)
  rcases hk.lt_or_eq with hlt | rfl
  · interval_cases k <;> exact ⟨_, rfl, rfl⟩
  · exact ⟨_, rfl, congrArg (fun bs => [Event.dc .high, Event.txb bs]) whole⟩

/-- The position after a row of the table (10_state.md R23). -/
theorem nextSeq_of_le {op : Op} {k : Nat} (hk : k ≤ op.last) :
    nextSeq op k = if k = op.last then .idle else .row op (k + 1) := by
  rw [nextSeq, if_congr hk.lt_iff_ne rfl rfl, ite_not]

theorem SendsRows.step_row {s : State} {op : Op} {k : Nat} {es : Nat → List Event} (h : SendsRows s op es)
    (hs : s.seqTurn = true) (pos : s.seq = .row op k) (hk : k ≤ op.last) :
    step s = .next (s.popTurn.sent (nextSeq op k) (es k)) := by
  obtain ⟨i, row, hes⟩ := h k hk
  rw [Machine.step_row hs pos row nofun, ← hes]
  simp only [MicroStep.events, lastRes_wireEvents, reduceCtorEq, false_and, if_false]
  rfl

/-- Settles O30: every row of SETPIXEL's table is part of a wire message. -/
theorem setpixelTableRows : Obligations.SetpixelTableRows := by
  intro s k hs pos hk
  rw [(setpixel_sendsRows s).step_row hs pos hk, nextSeq_of_le hk]
  rfl

/-- Settles O31: every row of REFRESH's table is part of a wire message, and a legal configuration has a first pixel. -/
theorem refreshTableRows : Obligations.RefreshTableRows := by
  intro s k hwf hs pos hk
  rw [(refresh_sendsRows (size_pos hwf)).step_row hs pos hk, nextSeq_of_le hk]
  rfl

/-! ### From the presented request to IDLE -/

theorem flatMap_range_succ (es : Nat → List Event) (k : Nat) :
    (List.range (k + 1)).flatMap es = (List.range k).flatMap es ++ es k := by
  simp [List.range_succ]

section

variable {s : State} {op : Op} {es : Nat → List Event} (h : SendsRows s op es) (hturns : s.turns = [])
include h hturns

/-- With no turns given the sequencer steps at a wire row, whatever the wait bit says. -/
theorem SendsRows.seqTurn {k : Nat} (pos : s.seq = .row op k) (hk : k ≤ op.last) : s.seqTurn = true := by
  obtain ⟨i, row, -⟩ := h k hk
  have hnone : delayAt s.cfg (.row op k) = none :=
    Option.eq_none_iff_forall_ne_some.2 fun n hn => by simp [rowAt_of_delayAt hn] at row
  exact seqTurn_of_not_holding hturns (by simp [State.holding, pos, hnone])

/-- The step at row `k` after the rows before it: what a row sends depends on nothing that a row writes. -/
theorem SendsRows.step_sent {k : Nat} (hk : k ≤ op.last) (sofar : List Event) :
    step (s.sent (.row op k) sofar) = .next (s.sent (nextSeq op k) (sofar ++ es k)) := by
  have h' : SendsRows (s.sent (.row op k) sofar) op es := h
  rw [h'.step_row (h'.seqTurn hturns rfl hk) rfl hk, popTurn_of_nil (by exact hturns), sent_sent]

theorem SendsRows.run_to_row (pos : s.seq = .row op 0) {k : Nat} (hk : k ≤ op.last) :
    core.run k s = .next (s.sent (.row op k) ((List.range k).flatMap es)) := by
  induction k with
  | zero => exact congrArg _ (sent_nil pos).symm
  | succ k ih =>
    have hstep := h.step_sent hturns (Nat.le_of_succ_le hk) ((List.range k).flatMap es)
    rw [run_add (ih (Nat.le_of_succ_le hk)), run_one hstep, flatMap_range_succ, nextSeq,
      if_pos (Nat.lt_of_succ_le hk)]

/-- The whole table, one step a row. -/
theorem SendsRows.run_table (pos : s.seq = .row op 0) :
    core.run (op.last + 1) s = .next (s.sent .idle ((List.range (op.last + 1)).flatMap es)) := by
  have hstep := h.step_sent hturns le_rfl ((List.range op.last).flatMap es)
  rw [run_add (h.run_to_row hturns pos le_rfl), run_one hstep, flatMap_range_succ, nextSeq, if_neg (lt_irrefl _)]

end

theorem seqTurn_of_idle {s : State} (hturns : s.turns = []) (hq : s.seq = .idle) : s.seqTurn = true :=
  seqTurn_of_not_holding hturns (by simp [State.holding, hq, delayAt])

/-- `s` after a whole operation with these operands that sends `es`, `rest` still waiting at the host's port. -/
def State.afterOperation (s : State) (x y : Coord) (c : Color) (rest : List HostAct) (es : List Event) : State :=
  ((s.loadLatches x y c).setHost rest).sent .idle es

/-- Acceptance and the whole table. -/
theorem run_operation {s : State} {w : ReqWord} {rest : List HostAct} {i : Instr} {op : Op} {x y : Coord} {c : Color}
    {es : Nat → List Event} (hq : s.seq = .idle) (hturns : s.turns = []) (hhost : s.host = .request w :: rest)
    (hd : decodeRequest w = .ok i)
    (hexec : exec i s = .next { s with x := x, y := y, c := c, seq := .row op 0 })
    (h : SendsRows (s.loadLatches x y c) op es) :
    core.run (op.last + 2) s =
      .next (s.afterOperation x y c rest ((List.range (op.last + 1)).flatMap es)) := by
  have haccept : step s = .next { s with x := x, y := y, c := c, seq := .row op 0, host := rest } := by
    rw [step_of_seqTurn (seqTurn_of_idle hturns hq), popTurn_of_nil hturns, seqStep_idle hq,
      idleStep_request hhost hd, hexec]
    rfl
  have h' : SendsRows { s with x := x, y := y, c := c, seq := .row op 0, host := rest } op es := h
  rw [run_succ (M := core) haccept, h'.run_table hturns rfl]
  rfl

/-! ### One whole SETPIXEL -/

theorem run_setpixel {s : State} {w : ReqWord} {rest : List HostAct} {x y : Coord} {c : Color} (hq : s.seq = .idle)
    (hturns : s.turns = []) (hhost : s.host = .request w :: rest) (hd : decodeRequest w = .ok (.setpixel x y c))
    (hx : x.toNat < s.cfg.width.toNat) (hy : y.toNat < s.cfg.height.toNat) :
    core.run 7 s = .next (s.afterOperation x y c rest (setpixelEvents s.cfg x y c)) :=
  run_operation hq hturns hhost hd ((setpixelIsAcceptedInRange x y c s hq).1 hx hy)
    (setpixel_sendsRows (s.loadLatches x y c))

/-- Settles O33: the frames are those that follow the first drive of the line. -/
theorem setpixelSendsThirteenFrames : Obligations.SetpixelSendsThirteenFrames := by
  intro s w rest x y c hq hturns hhost hd hx hy
  exact ⟨_, run_setpixel hq hturns hhost hd hx hy, rfl, frames_append_dc _ _ _⟩

/-! ### One whole REFRESH, and a second one -/

theorem run_refresh {s : State} {w : ReqWord} {rest : List HostAct} {x y : Coord} {c : Color} (hwf : s.cfg.wf = true)
    (hb : s.cfg.buffered = true) (hq : s.seq = .idle) (hturns : s.turns = []) (hhost : s.host = .request w :: rest)
    (hd : decodeRequest w = .ok (.refresh x y c)) :
    core.run 7 s = .next (s.afterOperation x y c rest (refreshTrace s.cfg s.fb)) :=
  run_operation hq hturns hhost hd ((refreshIsAcceptedWhenBuffered x y c s hq).1 hb)
    (refresh_sendsRows (s := s.loadLatches x y c) (size_pos hwf))

theorem length_stream (fb : Fb) (n : Nat) : (stream fb n).length = n * 2 := by
  rw [← pixelBytes_pixels, length_pixelBytes, length_pixels, Nat.mul_comm]

/-- Settles O34: the rows of the table added up, and two bytes a pixel. -/
theorem refreshSendsWholeBuffer : Obligations.RefreshSendsWholeBuffer := by
  intro s w rest x y c hwf hb hq hturns hhost hd
  exact ⟨run_refresh hwf hb hq hturns hhost hd, length_stream _ _⟩

/-- Settles O35: the first REFRESH leaves the configuration and the framebuffer, on which the second one's events
depend. -/
theorem refreshIsIdempotent : Obligations.RefreshIsIdempotent := by
  intro s w1 w2 rest x1 y1 x2 y2 c1 c2 hwf hb hq hturns hhost hd1 hd2
  constructor
  · have first := run_refresh hwf hb hq hturns hhost hd1
    have second := run_refresh (s := s.afterOperation x1 y1 c1 (.request w2 :: rest) (refreshTrace s.cfg s.fb))
      hwf hb rfl hturns rfl hd2
    exact ⟨_, (run_add first).trans second, rfl, rfl, rfl⟩
  · intro cfg hwidth hheight hcaset hraset hramwr
    simp only [refreshTrace, hwidth, hheight, hcaset, hraset, hramwr]

end Sys2Proof.Machine
end

section
/-! The accessors and the host's framebuffer port (44_accessors.md): the three requests that answer in one step, and
what an access to one entry of the framebuffer does. -/

namespace Sys2Proof.Machine

/-! ### The three answers -/

theorem exec_getwidth_idle {x y : Coord} {c : Color} {s : State} (h : s.seq = .idle) :
    exec (.getwidth x y c) s = .next { s with x := x, y := y, c := c, rsp := s.cfg.width } :=
  accept_idle h

theorem exec_getheight_idle {x y : Coord} {c : Color} {s : State} (h : s.seq = .idle) :
    exec (.getheight x y c) s = .next { s with x := x, y := y, c := c, rsp := s.cfg.height } :=
  accept_idle h

/-- Settles O14: at IDLE every request is accepted, and GETWIDTH's acceptance sets the response. -/
theorem getwidthReturnsWidth : Obligations.GetwidthReturnsWidth := by
  refine ⟨fun _ _ _ _ hq => exec_getwidth_idle hq, by decide, fun s t hq hwidth h => ?_⟩
  rw [exec_getwidth_idle hq] at h
  cases h
  exact hwidth

/-- Settles O15: at IDLE every request is accepted, and GETHEIGHT's acceptance sets the response. -/
theorem getheightReturnsHeight : Obligations.GetheightReturnsHeight := by
  refine ⟨fun _ _ _ _ hq => exec_getheight_idle hq, by decide, fun s t hq hheight h => ?_⟩
  rw [exec_getheight_idle hq] at h
  cases h
  exact hheight

/-- Settles O16: GETBUFFER's meaning at IDLE, by the variant. -/
theorem getbufferReturnsZero : Obligations.GetbufferReturnsZero :=
  ⟨fun _ _ _ _ hq =>
    ⟨fun hb => (execGetbuffer_idle hq).trans (if_pos hb),
     fun hb => (execGetbuffer_idle hq).trans (if_neg (by simp [hb]))⟩,
   by decide⟩

/-! ### One access to the framebuffer -/

section
variable {s : State} {i : Nat} {v : Color}

theorem hostWrite_of_lt (hb : s.cfg.buffered = true) (hi : i < s.cfg.size) :
    hostWrite i v s = .next (s.setFb (s.fb.write i v)) := by
  rw [hostWrite, if_pos hb, if_pos hi]

theorem hostWrite_of_le (hb : s.cfg.buffered = true) (hi : s.cfg.size ≤ i) :
    hostWrite i v s = .refused (.fbIndexOutOfRange i) := by
  rw [hostWrite, if_pos hb, if_neg hi.not_gt]

theorem hostWrite_of_unbuffered (hb : s.cfg.buffered = false) : hostWrite i v s = .refused .noFramebuffer := by
  simp [hostWrite, hb]

theorem hostRead_of_lt (hb : s.cfg.buffered = true) (hi : i < s.cfg.size) :
    hostRead i s = .next (s.setFbRdata (s.fb.read i)) := by
  rw [hostRead, if_pos hb, if_pos hi]

theorem hostRead_of_le (hb : s.cfg.buffered = true) (hi : s.cfg.size ≤ i) :
    hostRead i s = .refused (.fbIndexOutOfRange i) := by
  rw [hostRead, if_pos hb, if_neg hi.not_gt]

theorem hostRead_of_unbuffered (hb : s.cfg.buffered = false) : hostRead i s = .refused .noFramebuffer := by
  simp [hostRead, hb]

/-! ### The step that honours it -/

variable {rest : List HostAct}

theorem idleStep_fbWrite (hh : s.host = .fbWrite i v :: rest) :
    idleStep s = mapNext (·.setHost rest) (hostWrite i v s) := by
  simp [idleStep, hh]

theorem idleStep_fbRead (hh : s.host = .fbRead i :: rest) :
    idleStep s = mapNext (·.setHost rest) (hostRead i s) := by
  simp [idleStep, hh]

theorem step_hostWrite (hs : s.seqTurn = true) (hq : s.seq = .idle) (hh : s.host = .fbWrite i v :: rest) :
    step s = mapNext (·.setHost rest) (hostWrite i v s.popTurn) := by
  rw [step_of_seqTurn hs, seqStep_idle (by exact hq), idleStep_fbWrite (by exact hh)]

theorem step_hostRead (hs : s.seqTurn = true) (hq : s.seq = .idle) (hh : s.host = .fbRead i :: rest) :
    step s = mapNext (·.setHost rest) (hostRead i s.popTurn) := by
  rw [step_of_seqTurn hs, seqStep_idle (by exact hq), idleStep_fbRead (by exact hh)]

end

/-- Settles O32: the step at IDLE makes the access at the head of the queue, and a refused access is a refused step. -/
theorem hostPortAccess : Obligations.HostPortAccess := by
  intro s i v rest hs hq
  refine ⟨fun hh hb hi => ?_, fun hh hb hi => ?_, fun hh hb hi => ?_, fun hh hb => ?_⟩
  · rw [step_hostWrite hs hq hh, hostWrite_of_lt (by exact hb) (by exact hi)]; rfl
  · rw [step_hostRead hs hq hh, hostRead_of_lt (by exact hb) (by exact hi)]; rfl
  · rcases hh with hh | hh
    · rw [step_hostWrite hs hq hh, hostWrite_of_le (by exact hb) (by exact hi), mapNext_refused]
    · rw [step_hostRead hs hq hh, hostRead_of_le (by exact hb) (by exact hi), mapNext_refused]
  · rcases hh with hh | hh
    · rw [step_hostWrite hs hq hh, hostWrite_of_unbuffered (by exact hb), mapNext_refused]
    · rw [step_hostRead hs hq hh, hostRead_of_unbuffered (by exact hb), mapNext_refused]

end Sys2Proof.Machine
end

section
/-! The nine wire commands (45_wire_commands.md): the state that each part of a message with parameters leaves, and what
each command sends. -/

namespace Sys2Proof.Machine

/-! ### The two parts of a message -/

section
variable {s : State}

/-- Away from a data row a message with parameters sends its command frame, whatever its parameters are. -/
theorem sendPart_command_eq (hp : s.seq.inParams = false) (cmd : Byte) (params : State → State) :
    sendPart cmd params s = .next { s with dc := .low, trace := s.trace ++ [.dc .low, .tx cmd] } :=
  (sendPart_command hp).trans (congrArg _ (writeCommand_eq cmd s))

/-- At a data row a message whose parameters are one buffer call sends them. -/
theorem sendPart_dataBuf_eq (hp : s.seq.inParams = true) (cmd : Byte) (bs : List Byte) :
    sendPart cmd (writeDataBuf bs) s = .next { s with dc := .high, trace := s.trace ++ [.dc .high, .txb bs] } :=
  (sendPart_params hp).trans (congrArg _ (writeDataBuf_eq bs s))

/-- At a data row a message whose parameter is one single-byte write sends it. -/
theorem sendPart_data8_eq (hp : s.seq.inParams = true) (cmd b : Byte) :
    sendPart cmd (writeData8 b) s = .next { s with dc := .high, trace := s.trace ++ [.dc .high, .tx b] } :=
  (sendPart_params hp).trans (congrArg _ (writeData8_eq b s))

end

/-! ### The commands -/

/-- Settles O19: each of the four is one `WriteCommand` of its own byte. -/
theorem bareCommandsSendOneFrame : Obligations.BareCommandsSendOneFrame :=
  fun s =>
    ⟨congrArg _ (writeCommand_eq s.cfg.cmdSwreset s), congrArg _ (writeCommand_eq s.cfg.cmdSlpout s),
     congrArg _ (writeCommand_eq s.cfg.cmdInvon s), congrArg _ (writeCommand_eq s.cfg.cmdDispon s)⟩

/-- Settles O20: both are messages whose parameters are one call with the two bounds' bytes. -/
theorem windowCommandsSendFourBytes : Obligations.WindowCommandsSendFourBytes :=
  fun a b s =>
    ⟨fun hp => ⟨sendPart_command_eq hp s.cfg.cmdCaset _, sendPart_command_eq hp s.cfg.cmdRaset _⟩,
     fun hp =>
      ⟨sendPart_dataBuf_eq hp s.cfg.cmdCaset (windowBytes a b),
       sendPart_dataBuf_eq hp s.cfg.cmdRaset (windowBytes a b)⟩⟩

/-- Settles O21: a message whose parameters are one call with the pixels' bytes. -/
theorem memoryWriteSendsPixels : Obligations.MemoryWriteSendsPixels :=
  fun p ps s =>
    ⟨fun hp => sendPart_command_eq hp s.cfg.cmdRamwr _,
     fun hp => sendPart_dataBuf_eq hp s.cfg.cmdRamwr (pixelBytes (p :: ps))⟩

/-- Settles O22: a message whose parameter is one single-byte write. -/
theorem pixelFormatSendsOneByte : Obligations.PixelFormatSendsOneByte :=
  fun f s =>
    ⟨fun hp => sendPart_command_eq hp s.cfg.cmdColmod _, fun hp => sendPart_data8_eq hp s.cfg.cmdColmod f⟩

/-- Settles O23: the refusal is the command's whole meaning, and no wire row of any table holds the command. -/
theorem memoryContinueIsNeverSent : Obligations.MemoryContinueIsNeverSent :=
  fun p ps _ => ⟨rfl, fun _ _ row => rowAt_ne_ramwrc row p ps rfl⟩

end Sys2Proof.Machine
end

section
/-! An operation in progress always steps on, and every refusal is decided at IDLE (60_exceptions.md R220, R223): what
each shared operation answers when it refuses, read up to the step. -/

namespace Sys2Proof.Machine

/-! ### At a row -/

/-- The three tables have a row at each position up to their last. -/
theorem exists_rowAt (s : State) {op : Op} {k : Nat} (hk : k ≤ op.last) : ∃ m, rowAt s op k = some m := by
  cases op with
  | init => exact exists_initRow s.cfg hk
  | setpixel | refresh => simp only [Op.last] at hk; interval_cases k <;> exact ⟨_, rfl⟩

theorem microStep_answers {s : State} {op : Op} {k : Nat} (pos : s.seq = .row op k) (hk : k ≤ op.last) :
    ∃ t, microStep op k s = .next t := by
  obtain ⟨m, row⟩ := exists_rowAt s hk
  cases m with
  | pin | delay | zeroFill => exact ⟨_, by rw [microStep, row]⟩
  | wire i => exact ⟨_, by rw [microStep_wire row, exec_of_wireRow pos row, mapNext_next]⟩

/-- Settles O47: a turn of the environment always answers a next state, and so does the row at a legal position. -/
theorem busyNeverStops : Obligations.BusyNeverStops := by
  intro s hinv hbusy
  obtain ⟨op, k, pos⟩ := busy_eq_true.1 hbusy
  obtain ⟨-, legal, -⟩ := inv_iff.1 hinv
  cases hs : s.seqTurn with
  | false => exact ⟨_, step_of_envTurn hs⟩
  | true =>
    rw [step_of_seqTurn hs, seqStep_at (by exact pos)]
    exact microStep_answers (by exact pos) (by simpa [pos, Seq.legal] using legal)

/-! ### A refused request -/

theorem reqOp_of_decodeRequest_error {w : ReqWord} {e : DecodeError} (h : decodeRequest w = .error e) :
    reqOp w = 0 ∨ reqOp w = 7 := by
  unfold decodeRequest at h
  split at h
  case h_7 =>
    simp only [imp_false] at *
    bv_omega
  all_goals cases h

/-- Why a request presented at IDLE is refused. -/
theorem runRequest_refused {w : ReqWord} {s : State} {r : Refusal} (hq : s.seq = .idle)
    (h : runRequest w s = .refused r) :
    (r = .reservedRequest (reqOp w) ∧ (reqOp w = 0 ∨ reqOp w = 7))
    ∨ (r = .bufferedOnly ∧ s.cfg.buffered = false ∧ (reqOp w = 3 ∨ reqOp w = 6))
    ∨ (r = .coordinatesOutOfRange ∧ reqOp w = 2
        ∧ (s.cfg.width.toNat ≤ (reqX w).toNat ∨ s.cfg.height.toNat ≤ (reqY w).toNat)) := by
  unfold runRequest at h
  split at h
  next i hd =>
    obtain ⟨-, ⟨-, rfl⟩ | ⟨hop, rfl⟩ | ⟨hop, rfl⟩ | ⟨-, rfl⟩ | ⟨-, rfl⟩ | ⟨hop, rfl⟩⟩ := decodeRequest_cases hd
    · cases (accept_idle hq).symm.trans h
    · have h := (execSetpixel_idle hq).symm.trans h
      split at h <;> cases h
      exact .inr (.inr ⟨rfl, hop, inRange_eq_false.1 (Bool.eq_false_iff.2 ‹_›)⟩)
    · have h := (execRefresh_idle hq).symm.trans h
      split at h <;> cases h
      exact .inr (.inl ⟨rfl, Bool.eq_false_iff.2 ‹_›, .inl hop⟩)
    · cases (accept_idle hq).symm.trans h
    · cases (accept_idle hq).symm.trans h
    · have h := (execGetbuffer_idle hq).symm.trans h
      split at h <;> cases h
      exact .inr (.inl ⟨rfl, Bool.eq_false_iff.2 ‹_›, .inr hop⟩)
  next e hd =>
    cases h
    exact .inl ⟨rfl, reqOp_of_decodeRequest_error hd⟩

/-! ### A refused access to the framebuffer -/

theorem hostRead_refused {s : State} {i : Nat} {r : Refusal} (h : hostRead i s = .refused r) :
    (r = .noFramebuffer ∧ s.cfg.buffered = false) ∨ (r = .fbIndexOutOfRange i ∧ s.cfg.size ≤ i) := by
  cases hb : s.cfg.buffered with
  | false => cases (hostRead_of_unbuffered hb).symm.trans h; exact .inl ⟨rfl, rfl⟩
  | true =>
    rcases lt_or_ge i s.cfg.size with hi | hi
    · cases (hostRead_of_lt hb hi).symm.trans h
    · cases (hostRead_of_le hb hi).symm.trans h; exact .inr ⟨rfl, hi⟩

/-- A write is refused as a read of the same entry is. -/
theorem hostWrite_eq_refused {s : State} {i : Nat} {v : Color} {r : Refusal} :
    hostWrite i v s = .refused r ↔ hostRead i s = .refused r := by
  unfold hostWrite hostRead
  split
  · split <;> simp
  · rfl

/-! ### A refused step -/

/-- What IDLE refuses is the action at the head of the host's queue. -/
theorem idleStep_refused {s : State} {r : Refusal} (h : idleStep s = .refused r) :
    (∃ w, s.host.head? = some (.request w) ∧ runRequest w s = .refused r)
    ∨ (∃ i, (s.host.head? = some (.fbRead i) ∨ ∃ v, s.host.head? = some (.fbWrite i v))
        ∧ hostRead i s = .refused r) := by
  unfold idleStep at h
  split at h
  next => cases h
  next w rest hh => exact .inl ⟨w, by rw [hh]; rfl, mapNext_eq_refused.1 h⟩
  next i v rest hh =>
    exact .inr ⟨i, .inr ⟨v, by rw [hh]; rfl⟩, hostWrite_eq_refused.1 (mapNext_eq_refused.1 h)⟩
  next i rest hh => exact .inr ⟨i, .inl (by rw [hh]; rfl), mapNext_eq_refused.1 h⟩

/-- Under the invariant only the sequencer at IDLE refuses. -/
theorem step_refused {s : State} {r : Refusal} (hinv : s.inv = true) (h : step s = .refused r) :
    s.seq = .idle ∧ idleStep s.popTurn = .refused r := by
  have idle : s.seq = .idle := by
    cases hb : s.busy with
    | false => exact busy_eq_false.1 hb
    | true =>
      obtain ⟨t, ht⟩ := busyNeverStops s hinv hb
      cases ht.symm.trans h
  cases hs : s.seqTurn with
  | false => cases (step_of_envTurn hs).symm.trans h
  | true => exact ⟨idle, by rwa [step_of_seqTurn hs, seqStep_idle (by exact idle)] at h⟩

/-- Settles O48: the step refuses what IDLE refuses, a request by `runRequest_refused` and an access by
`hostRead_refused`. -/
theorem refusalsAreAtTheBoundary : Obligations.RefusalsAreAtTheBoundary := by
  intro s r hinv h
  obtain ⟨idle, h⟩ := step_refused hinv h
  refine ⟨idle, ?_⟩
  rcases idleStep_refused h with ⟨w, head, hw⟩ | ⟨i, head, hi⟩
  · exact .inl ⟨w, head, runRequest_refused (s := s.popTurn) idle hw⟩
  · exact .inr ⟨i, head, hostRead_refused (s := s.popTurn) hi⟩

end Sys2Proof.Machine
end

section
/-! A Delay without ticks (70_reset_and_hazards.md R260, 60_exceptions.md R223): while no running tick source steps, a
held Delay only uses up turns, along a list of turns and along a schedule. -/

namespace Sys2Proof.Machine

theorem busy_of_holding {s : State} (h : s.holding = true) : s.busy = true := by
  refine busy_eq_true.2 ?_
  cases hq : s.seq with
  | idle => simp [State.holding, hq, delayAt] at h
  | row op k => exact ⟨op, k, rfl⟩

/-- A turn of the environment with no tick of a running tick source, and a held poll, use up the turn and at most stop
or start the tick source. -/
theorem step_without_tick {s : State} (hturn : s.seqTurn = false ∨ s.holding = true)
    (htick : s.nextTurn = .tick → s.tickOn = false) :
    ∃ on, step s = .next { s with turns := s.turns.tail, tickOn := on } := by
  cases hs : s.seqTurn with
  | true => exact ⟨s.tickOn, step_of_holding (hturn.resolve_left (by simp [hs])) hs⟩
  | false =>
    have noTick : ¬(s.nextTurn = .tick ∧ s.popTurn.tickOn = true) := fun ⟨tick, on⟩ => by
      cases on.symm.trans (htick tick)
    exact ⟨_, by rw [step_of_envTurn hs, environmentStep_eq, if_neg noTick]; rfl⟩

/-- Only a turn that the list holds starts the tick source. -/
theorem startTick_mem_of_nextTurn {s : State} (h : s.nextTurn = .startTick) : .startTick ∈ s.turns := by
  cases hts : s.turns with
  | nil => rw [nextTurn_of_nil hts] at h; split at h <;> cases h
  | cons a ts => rw [nextTurn_of_cons hts] at h; simp [h]

theorem run_without_tick {m : Nat} {s : State} (off : s.tickOn = false) (hstart : .startTick ∉ s.turns)
    (hold : s.holding = true) :
    ∃ ts on, Sys2Proof.core.run m s = .next { s with turns := ts, tickOn := on } := by
  induction m generalizing s with
  | zero => exact ⟨s.turns, s.tickOn, rfl⟩
  | succ m ih =>
    obtain ⟨on, hstep⟩ := step_without_tick (.inr hold) fun _ => off
    have stillOff : on = false := by
      rcases (Move.of_step hstep).tickOn_writers with same | ⟨-, stopped⟩ | ⟨started, -⟩
      · exact same.trans off
      · exact stopped
      · exact absurd (startTick_mem_of_nextTurn started) hstart
    obtain ⟨ts, on', hrun⟩ :=
      ih (s := { s with turns := s.turns.tail, tickOn := on }) stillOff
        (fun hmem => hstart (List.mem_of_mem_tail hmem)) hold
    exact ⟨ts, on', (run_succ (M := core) hstep).trans hrun⟩

/-- Settles O39: such a run changes the turns and the tick source only. -/
theorem stoppedTickHangs : Obligations.StoppedTickHangs := by
  intro m s off hstart hold
  obtain ⟨ts, on, hrun⟩ := run_without_tick (m := m) off hstart hold
  exact ⟨_, hrun, rfl, busy_of_holding hold, rfl, rfl, rfl⟩

theorem runUnder_without_tick {turns : Nat → Turn} {k : Nat} {s : State} (noTicks : NoTicks turns s.tickOn)
    (hold : s.holding = true) :
    ∃ ts on, runUnder turns k s = .next { s with turns := ts, tickOn := on } := by
  induction k generalizing turns s with
  | zero => exact ⟨s.turns, s.tickOn, rfl⟩
  | succ k ih =>
    obtain ⟨on, hstep⟩ := step_without_tick (s := s.setTurns [turns 0]) (.inr hold) (noTicks 0)
    have hon : on = tickRunning turns s.tickOn 1 := tickOn_of_scheduled hstep
    obtain ⟨ts, on', hrun⟩ := ih (s := { s with turns := [], tickOn := on }) (hon ▸ noTicks.later) hold
    exact ⟨ts, on', (runUnder_succ hstep).trans hrun⟩

/-- Settles O60: such a run changes the turns and the tick source only. -/
theorem noTicksHangForEver : Obligations.NoTicksHangForEver := by
  intro turns s noTicks hold k
  obtain ⟨ts, on, hrun⟩ := runUnder_without_tick (k := k) noTicks hold
  exact ⟨_, hrun, rfl, busy_of_holding hold, rfl, rfl, rfl⟩

end Sys2Proof.Machine
end

section
/-! Every operation ends under fair ticks with a poll between any two (70_reset_and_hazards.md R260). Three numbers fall
in lexicographic order at each step: the steps the sequencer has left, the ticks until its next step is one of them, the
turns until the next tick. -/

namespace Sys2Proof.Machine

/-- What the sequencer has left of an operation at a position: each row is at most two steps that get on with it, a
Delay's entry and its passing poll; `entered` says that the entry is behind. -/
def Seq.stepsLeft (entered : Bool) : Seq → Nat
  | .idle => 0
  | .row op k => 2 * (op.last + 1 - k) - entered.toNat

/-- The steps of the sequencer, held polls left out, until the operation has ended. -/
def State.stepsLeft (s : State) : Nat := s.seq.stepsLeft s.delayOn

theorem stepsLeft_nextSeq_lt {op : Op} {k : Nat} (hk : k ≤ op.last) (entered entered' : Bool) :
    (nextSeq op k).stepsLeft entered' < (Seq.row op k).stepsLeft entered := by
  have := entered.toNat_le
  unfold nextSeq
  split <;> simp only [Seq.stepsLeft] <;> omega

/-- A step of the sequencer that is no held poll gets on with the operation. -/
theorem Move.stepsLeft_lt {s t : State} (m : Move s t) (legal : s.seq.legal = true) (busy : s.busy = true)
    (turn : s.seqTurn = true) (hold : s.holding = false) : t.stepsLeft < s.stepsLeft := by
  obtain ⟨op, k, pos⟩ := busy_eq_true.1 busy
  have hk : k ≤ op.last := by simpa [pos, Seq.legal] using legal
  have next (entered : Bool) : (nextSeq op k).stepsLeft entered < s.stepsLeft := by
    rw [State.stepsLeft, pos]; exact stepsLeft_nextSeq_lt hk _ _
  cases m with
  | environment envTurn => cases envTurn.symm.trans turn
  | nothing idle | start _ _ _ idle | answer _ _ _ idle | fbWrite _ _ _ idle | fbRead _ _ idle =>
    cases pos.symm.trans idle
  | pin _ _ _ pos' | delayPass _ _ _ pos' | command _ _ _ _ pos' | dataByte _ _ _ _ pos'
  | dataBuf _ _ _ _ pos' | zeroFill _ _ pos' => cases pos.symm.trans pos'; exact next _
  | delayEntry _ _ _ _ _ off =>
    simp only [State.stepsLeft, pos, off, Seq.stepsLeft, Bool.toNat_true, Bool.toNat_false]
    omega
  | delayHold _ _ n pos' row on held =>
    have hn : delayAt s.cfg s.seq = some n := pos' ▸ rowAt_delay row
    simp [State.holding, hn, on, held] at hold

/-! ### Ticks until the next poll passes -/

/-- The sequencer steps before the next tick. -/
def PollFirst (turns : Nat → Turn) : Prop := ∃ i, turns i = .sequencer ∧ ∀ j < i, turns j ≠ .tick

theorem PollFirst.later {turns : Nat → Turn} (h : PollFirst turns) (h0 : turns 0 ≠ .sequencer) :
    PollFirst (laterTurns turns) := by
  obtain ⟨i, hi, before⟩ := h
  cases i with
  | zero => exact absurd hi h0
  | succ i => exact ⟨i, hi, fun j hj => before (j + 1) (by omega)⟩

theorem not_pollFirst_of_tick {turns : Nat → Turn} (h0 : turns 0 = .tick) : ¬PollFirst turns := by
  rintro ⟨i, hi, before⟩
  cases i with
  | zero => cases h0.symm.trans hi
  | succ i => exact before 0 (by omega) h0

/-- After a tick a poll comes first. -/
theorem PollsBetweenTicks.pollFirst {turns : Nat → Turn} (polls : PollsBetweenTicks turns)
    (h0 : turns 0 = .tick) (again : ∃ i, laterTurns turns i = .tick) : PollFirst (laterTurns turns) := by
  obtain ⟨i, hpos, hi, hpoll⟩ := polls 0 (Nat.find again + 1) (by omega) h0 (Nat.find_spec again)
  obtain ⟨i, rfl⟩ := Nat.exists_eq_succ_of_ne_zero hpos.ne'
  exact ⟨i, hpoll, fun j hj => Nat.find_min again (by omega)⟩

theorem elapsed_of_tick {s t : State} (hcfg : t.cfg = s.cfg) (ht0 : t.t0 = s.t0)
    (hms : t.ms = (s.ms + 1) % s.cfg.msMod) : t.elapsed = (s.elapsed + 1) % s.cfg.msMod := by
  rw [State.elapsed, State.elapsed, hcfg, ht0, hms, Nat.mod_add_mod, Nat.mod_add_mod, Nat.add_right_comm]

/-- While a Delay holds the next tick does not wrap what has elapsed (40_init_sequencer.md R111). -/
theorem elapsed_succ_lt_of_holding {s : State} (hwf : s.cfg.wf = true) (h : s.holding = true) :
    s.elapsed + 1 < s.cfg.msMod := by
  unfold State.holding at h
  split at h
  next n hn =>
    have := delay_lt_msMod hwf hn
    simp only [State.waitOver, Bool.and_eq_true, Bool.not_eq_true', decide_eq_false_iff_not] at h
    omega
  next => cases h

/-- After at most `b` ticks the sequencer's next step is no held poll. While a Delay holds, a tick is one more elapsed;
when its condition is true but a tick comes before the poll, that tick may wrap it round to the beginning. -/
structure TicksSuffice (b : Nat) (turns : Nat → Turn) (s : State) : Prop where
  held : s.holding = true → s.cfg.msMod ≤ s.elapsed + b
  passing : s.holding = false → PollFirst turns ∨ s.cfg.msMod < b

theorem ticksSuffice_msMod_succ (turns : Nat → Turn) (s : State) : TicksSuffice (s.cfg.msMod + 1) turns s :=
  ⟨fun _ => by omega, fun _ => .inr (by omega)⟩

theorem TicksSuffice.of_no_tick {b : Nat} {turns : Nat → Turn} {s : State} (h : TicksSuffice b turns s)
    (hturn : turns 0 ≠ .sequencer ∨ s.holding = true) (ts : List Turn) (on : Bool) :
    TicksSuffice b (laterTurns turns) { s with turns := ts, tickOn := on } :=
  ⟨h.held, fun passing =>
    (h.passing passing).imp_left fun poll => poll.later (hturn.resolve_right (Bool.eq_false_iff.1 passing))⟩

/-- A turn that is neither a tick of the running tick source nor a step of the sequencer that gets on leaves as many
steps and as many ticks. -/
theorem TicksSuffice.step_without_tick {b : Nat} {turns : Nat → Turn} {s : State} (h : TicksSuffice b turns s)
    (hturn : turns 0 ≠ .sequencer ∨ s.holding = true) (htick : turns 0 = .tick → s.tickOn = false) :
    ∃ t, step (s.setTurns [turns 0]) = .next t ∧ t.stepsLeft = s.stepsLeft
      ∧ TicksSuffice b (laterTurns turns) t := by
  have hturn' : (s.setTurns [turns 0]).seqTurn = false ∨ s.holding = true :=
    hturn.imp_left decide_eq_false
  obtain ⟨on, hstep⟩ := Machine.step_without_tick hturn' htick
  exact ⟨_, hstep, rfl, h.of_no_tick hturn _ on⟩

theorem TicksSuffice.of_tick {b : Nat} {turns : Nat → Turn} {s t : State} (h : TicksSuffice b turns s)
    (hwf : s.cfg.wf = true) (h0 : turns 0 = .tick) (poll : PollFirst (laterTurns turns))
    (hcfg : t.cfg = s.cfg) (ht0 : t.t0 = s.t0) (hms : t.ms = (s.ms + 1) % s.cfg.msMod) :
    0 < b ∧ TicksSuffice (b - 1) (laterTurns turns) t := by
  have helapsed := elapsed_of_tick hcfg ht0 hms
  have enough : 0 < b ∧ s.cfg.msMod ≤ t.elapsed + (b - 1) := by
    cases hold : s.holding with
    | true =>
      have := h.held hold
      have hlt := elapsed_succ_lt_of_holding hwf hold
      rw [Nat.mod_eq_of_lt hlt] at helapsed
      omega
    | false =>
      have := (h.passing hold).resolve_left (not_pollFirst_of_tick h0)
      omega
  exact ⟨enough.1, fun _ => hcfg ▸ enough.2, fun _ => .inl poll⟩

/-! ### The run reaches IDLE -/

/-- The run under the schedule reaches IDLE. -/
def ReachesIdle (turns : Nat → Turn) (s : State) : Prop :=
  ∃ (k : Nat) (t : State), runUnder turns k s = .next t ∧ t.seq = .idle

theorem ReachesIdle.of_step {turns : Nat → Turn} {s t : State} (hstep : step (s.setTurns [turns 0]) = .next t)
    (h : ReachesIdle (laterTurns turns) t) : ReachesIdle turns s := by
  obtain ⟨k, u, hrun, idle⟩ := h
  exact ⟨k + 1, u, (runUnder_succ hstep).trans hrun, idle⟩

/-- A state that meets the invariant, under a schedule with fair ticks and a poll between any two. -/
structure FairRun (turns : Nat → Turn) (s : State) : Prop where
  inv : s.inv = true
  ticks : FairTicks turns s.tickOn
  polls : PollsBetweenTicks turns

namespace FairRun

variable {turns : Nat → Turn} {s t : State}

theorem later (h : FairRun turns s) (hstep : step (s.setTurns [turns 0]) = .next t) :
    FairRun (laterTurns turns) t :=
  ⟨(Move.of_step hstep).keeps_inv h.inv, tickOn_of_scheduled hstep ▸ h.ticks.later, h.polls.later⟩

theorem exists_step (h : FairRun turns s) (busy : s.busy = true) :
    ∃ t, step (s.setTurns [turns 0]) = .next t :=
  busyNeverStops (s.setTurns [turns 0]) h.inv busy

theorem stepsLeft_lt (h : FairRun turns s) (busy : s.busy = true) (turn : turns 0 = .sequencer)
    (hold : s.holding = false) (hstep : step (s.setTurns [turns 0]) = .next t) : t.stepsLeft < s.stepsLeft := by
  obtain ⟨-, legal, -⟩ := inv_iff.1 h.inv
  exact (Move.of_step hstep).stepsLeft_lt legal busy (seqTurn_eq_true.2 turn) hold

/-- The tick source's step, running. -/
theorem tick_step (h : FairRun turns s) {b : Nat} (hb : TicksSuffice b turns s) (tick : turns 0 = .tick)
    (on : s.tickOn = true) :
    ∃ t, step (s.setTurns [turns 0]) = .next t ∧ t.stepsLeft = s.stepsLeft
      ∧ 0 < b ∧ TicksSuffice (b - 1) (laterTurns turns) t := by
  obtain ⟨-, -, tickCounts, -⟩ := tickIncrementsCounter (s.setTurns [turns 0])
  have hstep := tickCounts tick on
  obtain ⟨i, -, again, -⟩ := (h.later hstep).ticks 0
  obtain ⟨hwf, -⟩ := inv_iff.1 h.inv
  exact ⟨_, hstep, rfl, hb.of_tick hwf tick (h.polls.pollFirst tick ⟨i, again⟩) rfl rfl rfl⟩

end FairRun

/-- Turn `i` being a tick of the running tick source, every turn brings IDLE closer: a step of the sequencer that gets
on, a tick, or a turn after which that tick is nearer. -/
theorem FairRun.reachesIdle {turns : Nat → Turn} {s : State} (h : FairRun turns s) {b i : Nat}
    (hb : TicksSuffice b turns s) (htick : turns i = .tick)
    (hon : tickRunning turns s.tickOn i = true) : ReachesIdle turns s := by
  cases busy : s.busy with
  | false => exact ⟨0, s, rfl, busy_eq_false.1 busy⟩
  | true =>
    by_cases getsOn : turns 0 = .sequencer ∧ s.holding = false
    · obtain ⟨t, hstep⟩ := h.exists_step busy
      have fewer := h.stepsLeft_lt busy getsOn.1 getsOn.2 hstep
      obtain ⟨j, -, htick, hon⟩ := (h.later hstep).ticks 0
      exact .of_step hstep ((h.later hstep).reachesIdle (ticksSuffice_msMod_succ _ t) htick hon)
    by_cases tick : turns 0 = .tick ∧ s.tickOn = true
    · obtain ⟨t, hstep, same, hpos, hb⟩ := h.tick_step hb tick.1 tick.2
      obtain ⟨j, -, htick, hon⟩ := (h.later hstep).ticks 0
      exact .of_step hstep ((h.later hstep).reachesIdle hb htick hon)
    · obtain ⟨t, hstep, same, hb⟩ := hb.step_without_tick (by simpa [imp_iff_not_or] using getsOn)
        (by simpa using tick)
      cases i with
      | zero => exact absurd ⟨htick, hon⟩ tick
      | succ i =>
        refine .of_step hstep ((h.later hstep).reachesIdle hb (i := i) htick ?_)
        rw [tickOn_of_scheduled hstep, tickRunning_laterTurns, hon]
termination_by (s.stepsLeft, b, i)
decreasing_by
  · exact .left _ _ fewer
  · rw [same]; exact .right _ (.left _ _ (by omega))
  · rw [same]; exact .right _ (.right _ (by omega))

/-- Settles O59: some tick of the running tick source is to come, and at first more than `2 ^ MSW` ticks are allowed. -/
theorem fairTicksEndEveryOperation : Obligations.FairTicksEndEveryOperation := by
  intro turns s inv ticks polls
  obtain ⟨i, -, htick, hon⟩ := ticks 0
  exact (FairRun.mk inv ticks polls).reachesIdle (ticksSuffice_msMod_succ turns s) htick hon

end Sys2Proof.Machine
end
